-- ==== Sys2Proof/Word.lean ====
section
/-! DEFINITION. The word types of the core: 8-bit cells, 16-bit registers, 40-bit command words (R7, R70). -/

namespace Sys2Proof

/-- An 8-bit value: a general register, a memory cell, a pixel cell, a timer (R7). -/
abbrev Byte := BitVec 8

/-- A 16-bit value: `pc`, `I`, a stack slot, an index or value operand, read data (R7, R71, R72). -/
abbrev Word := BitVec 16

/-- One command word as the command port takes it (R70). -/
abbrev CmdWord := BitVec 40

end Sys2Proof
end

