-- ==== Sys2Proof/Syntax.lean ====
section
/-! DEFINITION. The instructions of the core: the 24 commands of the opcode map (R75), one constructor a row, each with
the operands its format carries (R73, R74). -/

namespace Sys2Proof

/-- A decoded command. `v16` and `v8` are value operands, `a`, `r`, `p`, `k` the 16-bit index operand `idx` read as an
address, a register, a pixel or a key index, `b` the key state of WRKEY, true for pressed (R73). -/
inductive Instr where
  | push (v16 : Word)
  | pop
  | setpc (v16 : Word)
  | seti (v16 : Word)
  | rdmem (a : Word)
  | wrmem (a : Word) (v8 : Byte)
  | rdreg (r : Word)
  | wrreg (r : Word) (v8 : Byte)
  | rdpix (p : Word)
  | wrpix (p : Word) (v8 : Byte)
  | rdkey (k : Word)
  | wrkey (k : Word) (b : Bool)
  | setdt (v8 : Byte)
  | setst (v8 : Byte)
  | tick
  | render
  | live
  | beepon
  | beepoff
  | getpc
  | geti
  | getsp
  | getdt
  | getst
  deriving DecidableEq, Repr

end Sys2Proof
end

