-- ==== Sys2Proof/WellFormed.lean ====
section
/-! DEFINITION. What makes a command well formed: the six formats (R74), the operands each admits (R73, R79), the
mnemonics of the opcode map (R75), and an assembler line with operands not yet checked (R79). -/

namespace Sys2Proof

/-- The six command formats of R74. -/
inductive Format where
  | n
  | d16
  | d8
  | x
  | xd8
  | xb
  deriving DecidableEq, Repr

/-- The operand lists a format admits: their number, and the bound of each (R79: an operand that does not fit its field
is an assembly error; it does not wrap). -/
def Format.admits : Format → List Nat → Bool
  | .n, [] => true
  | .d16, [v] => decide (v < 65536)
  | .d8, [v] => decide (v < 256)
  | .x, [i] => decide (i < 65536)
  | .xd8, [i, v] => decide (i < 65536) && decide (v < 256)
  | .xb, [i, b] => decide (i < 65536) && decide (b < 2)
  | _, _ => false

/-- The 24 mnemonics of the opcode map (R75). -/
inductive Mnemonic where
  | push
  | pop
  | setpc
  | seti
  | rdmem
  | wrmem
  | rdreg
  | wrreg
  | rdpix
  | wrpix
  | rdkey
  | wrkey
  | setdt
  | setst
  | tick
  | render
  | live
  | beepon
  | beepoff
  | getpc
  | geti
  | getsp
  | getdt
  | getst
  deriving DecidableEq, Repr

/-- One line of the command assembler: a mnemonic and its operands, as numbers not yet checked (R79). -/
structure Line where
  mnemonic : Mnemonic
  operands : List Nat
  deriving DecidableEq, Repr

/-- The mnemonic an instruction stands under in the opcode map (R75). -/
def Instr.mnemonic : Instr → Mnemonic
  | .push _ => .push
  | .pop => .pop
  | .setpc _ => .setpc
  | .seti _ => .seti
  | .rdmem _ => .rdmem
  | .wrmem _ _ => .wrmem
  | .rdreg _ => .rdreg
  | .wrreg _ _ => .wrreg
  | .rdpix _ => .rdpix
  | .wrpix _ _ => .wrpix
  | .rdkey _ => .rdkey
  | .wrkey _ _ => .wrkey
  | .setdt _ => .setdt
  | .setst _ => .setst
  | .tick => .tick
  | .render => .render
  | .live => .live
  | .beepon => .beepon
  | .beepoff => .beepoff
  | .getpc => .getpc
  | .geti => .geti
  | .getsp => .getsp
  | .getdt => .getdt
  | .getst => .getst

/-- The operands of an instruction as the numbers an assembler line writes (R79). -/
def Instr.operands : Instr → List Nat
  | .push v16 => [v16.toNat]
  | .pop => []
  | .setpc v16 => [v16.toNat]
  | .seti v16 => [v16.toNat]
  | .rdmem a => [a.toNat]
  | .wrmem a v8 => [a.toNat, v8.toNat]
  | .rdreg r => [r.toNat]
  | .wrreg r v8 => [r.toNat, v8.toNat]
  | .rdpix p => [p.toNat]
  | .wrpix p v8 => [p.toNat, v8.toNat]
  | .rdkey k => [k.toNat]
  | .wrkey k b => [k.toNat, b.toNat]
  | .setdt v8 => [v8.toNat]
  | .setst v8 => [v8.toNat]
  | .tick => []
  | .render => []
  | .live => []
  | .beepon => []
  | .beepoff => []
  | .getpc => []
  | .geti => []
  | .getsp => []
  | .getdt => []
  | .getst => []

/-- The assembler line of an instruction (R79). -/
def Instr.line (i : Instr) : Line := { mnemonic := i.mnemonic, operands := i.operands }

end Sys2Proof
end

