-- ==== Sys2Proof/Decode.lean ====
section
/-! DEFINITION. The command encoding of 30_encoding.md: fields, formats and masks (R71, R74), the opcode map (R75), the
total decoder (R76, R77), the encoder, and the assembler (R79). -/

namespace Sys2Proof

/-- `op`, bits 39:35 (R71). -/
def opField (w : CmdWord) : BitVec 5 := w.extractLsb' 35 5

/-- `rsv`, bits 34:32 (R71). -/
def rsvField (w : CmdWord) : BitVec 3 := w.extractLsb' 32 3

/-- `idx`, bits 31:16 (R71). -/
def idxField (w : CmdWord) : Word := w.extractLsb' 16 16

/-- `data`, bits 15:0 (R71). -/
def dataField (w : CmdWord) : Word := w.extractLsb' 0 16

/-- `v8 = data[7:0]` (R73). -/
def v8Field (w : CmdWord) : Byte := w.extractLsb' 0 8

/-- `b = data[0]`, 1 meaning pressed (R73). -/
def bField (w : CmdWord) : Bool := w.getLsbD 0

/-- The 40-bit mask of a format: `op`, `rsv` and its must-be-zero bits (R74). -/
def Format.mask : Format → CmdWord
  | .n => 0xFFFFFFFFFF#40
  | .d16 => 0xFFFFFF0000#40
  | .d8 => 0xFFFFFFFF00#40
  | .x => 0xFF0000FFFF#40
  | .xd8 => 0xFF0000FF00#40
  | .xb => 0xFF0000FFFE#40

/-- The bits of a format that must be 0: its mask without `op`, so `rsv` is among them (R74). -/
def Format.mustBeZero (f : Format) : CmdWord := f.mask &&& 0x07FFFFFFFF#40

/-- The opcode of each row of the opcode map (R75). -/
def Mnemonic.opcode : Mnemonic → BitVec 5
  | .push => 0x01#5
  | .pop => 0x02#5
  | .setpc => 0x03#5
  | .seti => 0x04#5
  | .rdmem => 0x05#5
  | .wrmem => 0x06#5
  | .rdreg => 0x07#5
  | .wrreg => 0x08#5
  | .rdpix => 0x09#5
  | .wrpix => 0x0A#5
  | .rdkey => 0x0B#5
  | .wrkey => 0x0C#5
  | .setdt => 0x0D#5
  | .setst => 0x0E#5
  | .tick => 0x0F#5
  | .render => 0x10#5
  | .live => 0x11#5
  | .beepon => 0x12#5
  | .beepoff => 0x13#5
  | .getpc => 0x14#5
  | .geti => 0x15#5
  | .getsp => 0x16#5
  | .getdt => 0x17#5
  | .getst => 0x18#5

/-- The format of each row of the opcode map (R75). -/
def Mnemonic.format : Mnemonic → Format
  | .push => .d16
  | .pop => .n
  | .setpc => .d16
  | .seti => .d16
  | .rdmem => .x
  | .wrmem => .xd8
  | .rdreg => .x
  | .wrreg => .xd8
  | .rdpix => .x
  | .wrpix => .xd8
  | .rdkey => .x
  | .wrkey => .xb
  | .setdt => .d8
  | .setst => .d8
  | .tick => .n
  | .render => .n
  | .live => .n
  | .beepon => .n
  | .beepoff => .n
  | .getpc => .n
  | .geti => .n
  | .getsp => .n
  | .getdt => .n
  | .getst => .n

/-- `match = op << 35` of a row (R74). -/
def Mnemonic.matchWord (m : Mnemonic) : CmdWord := m.opcode.setWidth 40 <<< 35

/-- The word belongs to the row: `word & mask == match` (R74). -/
def Mnemonic.owns (m : Mnemonic) (w : CmdWord) : Bool := w &&& m.format.mask == m.matchWord

/-- A line is well formed when its mnemonic's format admits its operands (R79). -/
def Line.wellFormed (l : Line) : Bool := l.mnemonic.format.admits l.operands

/-- An instruction is well formed when its line is. The operand types already say so: see `Laws.instr_wellFormed`. -/
def Instr.wellFormed (i : Instr) : Bool := i.line.wellFormed

/-! ### Decoding -/

/-- Why a word is no command (R76, R77): decode step 1, `reservedOpcode`; decode step 2, `mustBeZeroSet`. -/
inductive DecodeError where
  | reservedOpcode
  | mustBeZeroSet
  deriving DecidableEq, Repr

/-- The row of an opcode, none for the reserved opcodes 0x00 and 0x19 to 0x1F (R75, R77). -/
def Mnemonic.ofOpcode (op : BitVec 5) : Option Mnemonic :=
  match op.toNat with
  | 0x01 => some .push
  | 0x02 => some .pop
  | 0x03 => some .setpc
  | 0x04 => some .seti
  | 0x05 => some .rdmem
  | 0x06 => some .wrmem
  | 0x07 => some .rdreg
  | 0x08 => some .wrreg
  | 0x09 => some .rdpix
  | 0x0A => some .wrpix
  | 0x0B => some .rdkey
  | 0x0C => some .wrkey
  | 0x0D => some .setdt
  | 0x0E => some .setst
  | 0x0F => some .tick
  | 0x10 => some .render
  | 0x11 => some .live
  | 0x12 => some .beepon
  | 0x13 => some .beepoff
  | 0x14 => some .getpc
  | 0x15 => some .geti
  | 0x16 => some .getsp
  | 0x17 => some .getdt
  | 0x18 => some .getst
  | _ => none

/-- The instruction of a row's word, its operands taken from the word's fields (R73). -/
def Mnemonic.instr (m : Mnemonic) (w : CmdWord) : Instr :=
  match m with
  | .push => .push (dataField w)
  | .pop => .pop
  | .setpc => .setpc (dataField w)
  | .seti => .seti (dataField w)
  | .rdmem => .rdmem (idxField w)
  | .wrmem => .wrmem (idxField w) (v8Field w)
  | .rdreg => .rdreg (idxField w)
  | .wrreg => .wrreg (idxField w) (v8Field w)
  | .rdpix => .rdpix (idxField w)
  | .wrpix => .wrpix (idxField w) (v8Field w)
  | .rdkey => .rdkey (idxField w)
  | .wrkey => .wrkey (idxField w) (bField w)
  | .setdt => .setdt (v8Field w)
  | .setst => .setst (v8Field w)
  | .tick => .tick
  | .render => .render
  | .live => .live
  | .beepon => .beepon
  | .beepoff => .beepoff
  | .getpc => .getpc
  | .geti => .geti
  | .getsp => .getsp
  | .getdt => .getdt
  | .getst => .getst

/-- The decoder, in the three steps of R76; total on all 2^40 words. -/
def decode (w : CmdWord) : Except DecodeError Instr :=
  match Mnemonic.ofOpcode (opField w) with
  | none => .error .reservedOpcode
  | some m => if w &&& m.format.mustBeZero = 0#40 then .ok (m.instr w) else .error .mustBeZeroSet

/-! ### Encoding -/

/-- `{op[4:0], 000, idx[15:0], data[15:0]}` (R71, R79). -/
def encodeFields (op : BitVec 5) (idx data : Word) : CmdWord :=
  op ++ 0#3 ++ idx ++ data

/-- The `idx` field an instruction writes; 0 where its format has no index (R73, R74). -/
def Instr.idxOperand : Instr → Word
  | .rdmem a => a
  | .wrmem a _ => a
  | .rdreg r => r
  | .wrreg r _ => r
  | .rdpix p => p
  | .wrpix p _ => p
  | .rdkey k => k
  | .wrkey k _ => k
  | .push _ => 0
  | .pop => 0
  | .setpc _ => 0
  | .seti _ => 0
  | .setdt _ => 0
  | .setst _ => 0
  | .tick => 0
  | .render => 0
  | .live => 0
  | .beepon => 0
  | .beepoff => 0
  | .getpc => 0
  | .geti => 0
  | .getsp => 0
  | .getdt => 0
  | .getst => 0

/-- The `data` field an instruction writes; 0 where its format has no value (R73, R74). -/
def Instr.dataOperand : Instr → Word
  | .push v16 => v16
  | .setpc v16 => v16
  | .seti v16 => v16
  | .wrmem _ v8 => v8.setWidth 16
  | .wrreg _ v8 => v8.setWidth 16
  | .wrpix _ v8 => v8.setWidth 16
  | .setdt v8 => v8.setWidth 16
  | .setst v8 => v8.setWidth 16
  | .wrkey _ b => if b then 1 else 0
  | .pop => 0
  | .rdmem _ => 0
  | .rdreg _ => 0
  | .rdpix _ => 0
  | .rdkey _ => 0
  | .tick => 0
  | .render => 0
  | .live => 0
  | .beepon => 0
  | .beepoff => 0
  | .getpc => 0
  | .geti => 0
  | .getsp => 0
  | .getdt => 0
  | .getst => 0

/-- The command word of an instruction (R71, R74, R75). -/
def encode (i : Instr) : CmdWord :=
  encodeFields i.mnemonic.opcode i.idxOperand i.dataOperand

/-! ### Assembling -/

/-- The `idx` and `data` fields an assembler line writes, for operands its format admits (R79). -/
def Format.fields : Format → List Nat → Word × Word
  | .d16, [v] => (0, BitVec.ofNat 16 v)
  | .d8, [v] => (0, BitVec.ofNat 16 v)
  | .x, [i] => (BitVec.ofNat 16 i, 0)
  | .xd8, [i, v] => (BitVec.ofNat 16 i, BitVec.ofNat 16 v)
  | .xb, [i, b] => (BitVec.ofNat 16 i, BitVec.ofNat 16 b)
  | _, _ => (0, 0)

/-- The word of an assembler line, none for an assembly error (R79). -/
def Line.assemble (l : Line) : Option CmdWord :=
  if l.wellFormed then
    some (encodeFields l.mnemonic.opcode (l.mnemonic.format.fields l.operands).1
      (l.mnemonic.format.fields l.operands).2)
  else none

/-! ### The opcode table's numbering -/

/-- The command word whose bits are `w`, of which the table gives `nbits`; every command word is one 40-bit word, so bit 0
of the table is bit 0 of the word (R9, R70). -/
def tableWord (nbits w : Nat) : CmdWord := BitVec.ofNat 40 (w % 2 ^ nbits)

/-- The instruction the decoder reads from the bits of a table row, none where it refuses. -/
def decodeTableWord (nbits w : Nat) : Option Instr :=
  match decode (tableWord nbits w) with
  | .ok i => some i
  | .error _ => none

end Sys2Proof
end

