-- ==== Sys2Proof/Config.lean ====
section
/-! DEFINITION. What the spec leaves open: the parameters of R8 and the free values of the environment (R36, R151, R173).
Each is an opaque constant, so no proof can see its value. The fixed parameters of R7 stand in Machine/Limits.lean. -/

namespace Sys2Proof

/-- `SCALE - 1`. `SCALE` is an integer of 1 or more and nothing else is known of it (R8, D15). -/
opaque Config.scalePred : Nat

/-- `SCALE`, the scale factor S of the renderer, at least 1 (R8, D15). -/
def Config.scale : Nat := Config.scalePred + 1

/-- The width in bits of a device pixel value. DESIGN CHOICE, safe: `DevPixel` is an open type (R8, D16), here the bit
patterns of an open width (log entry 8). -/
opaque Config.devPixelWidth : Nat

/-- `DevPixel`, the device pixel type (R8, D16). -/
abbrev DevPixel := BitVec Config.devPixelWidth

/-- `FG_COLOR` (R8, D16). -/
opaque Config.fgColor : DevPixel

/-- `BG_COLOR` (R8, D16). -/
opaque Config.bgColor : DevPixel

/-- The device buffer's entries before the first RENDER: any values (R36, D23). A free value (log entry 3). -/
opaque Config.initialDevPixel : Nat → DevPixel

/-- A waveform descriptor: frequency, duration, amplitude (R173, R174). The fields' type is open. DESIGN CHOICE, safe:
natural numbers (log entry 8). -/
structure Waveform where
  frequency : Nat
  duration : Nat
  amplitude : Nat
  deriving DecidableEq, Repr

/-- `TONE_FREQ` (R8, R174, D20). -/
opaque Config.toneFreq : Nat

/-- `TONE_DURATION` (R8, R174, D20). -/
opaque Config.toneDuration : Nat

/-- `TONE_AMPLITUDE` (R8, R174, D20). -/
opaque Config.toneAmplitude : Nat

/-- `TONE`, the one fixed waveform every BEEPON that enqueues enqueues (R174). -/
def Config.tone : Waveform :=
  { frequency := Config.toneFreq, duration := Config.toneDuration, amplitude := Config.toneAmplitude }

/-- `TICK_RATE`, how often the Host issues TICK (R8, R145, D24). No rule depends on time (R240), so nothing reads it. -/
opaque Config.tickRate : Nat

/-- `CMDS_PER_TICK`, how many Engine commands fall between two TICKs at most (R8, R234, D24). -/
opaque Config.cmdsPerTick : Nat

/-! ### Free draws of the environment, indexed by the counter `State.draws` (log entry 2) -/

/-- The answer of `surface.is_open()` at a draw (R151, D19). -/
opaque Config.surfaceIsOpen : Nat → Bool

/-- The answer of `surface.quit_signalled()` at a draw (R151, D19). -/
opaque Config.surfaceQuit : Nat → Bool

/-- Whether `surface.submit` answers ok at a draw (R151, D19). -/
opaque Config.surfaceAccepts : Nat → Bool

/-- How many times the Sink tries its drain step between two commands (R173, D21). -/
opaque Config.sinkDrains : Nat → Nat

end Sys2Proof
end

