-- ==== Sys2Proof/Machine/Limits.lean ====
section
/-! DEFINITION. The fixed parameters of R7, each a named constant (D37), and the device buffer's size (R36, R155). -/

namespace Sys2Proof.Machine

/-- `MEM_SIZE`: memory cells, addresses 0 to 4095 (R7, R31). -/
abbrev memSize : Nat := 4096

/-- `NREG`: general registers (R7, R20). -/
abbrev numRegs : Nat := 16

/-- `STACK_DEPTH`: stack slots; `sp` ranges over 0 to this number (R7, R28). -/
abbrev stackDepth : Nat := 16

/-- `FB_W`: framebuffer width in logical pixels (R7, R32). -/
abbrev fbWidth : Nat := 64

/-- `FB_H`: framebuffer height in logical pixels (R7, R32). -/
abbrev fbHeight : Nat := 32

/-- `NPIX = FB_W * FB_H` (R7, R32). -/
abbrev numPixels : Nat := fbWidth * fbHeight

/-- `NKEY`: key states (R7, R34). -/
abbrev numKeys : Nat := 16

/-- `PC_LIMIT`: the largest value SETPC accepts (R7, R102). A parameter with this default (93 U2, D10; log entry 9). -/
def pcLimit : Nat := 4094

/-- `PROGRAM_LOAD_ADDR`: the program counter after creation (R7, R25). A parameter with this default (93 U1; log entry 9). -/
def programLoadAddr : Word := 0x200

/-- `W = 64*S`, the device buffer's row width (R150, R155). -/
abbrev devWidth : Nat := fbWidth * Config.scale

/-- `H = 32*S`, the device buffer's number of rows (R150, R155). -/
abbrev devHeight : Nat := fbHeight * Config.scale

/-- The device buffer's number of entries, `(64*S) * (32*S)` (R36). -/
abbrev devSize : Nat := devWidth * devHeight

end Sys2Proof.Machine
end

