-- ==== Sys2Proof/Machine/State.lean ====
section
/-! DEFINITION. The state of the core (10_state.md, complete map R40), the environment state R39 says a model keeps (the
Sink, R173; the Surface, R151), and the two sides of the command port (R70, R72), as plain data; and the creation state
(R230, R231). -/

namespace Sys2Proof.Machine

/-- The outcome codes of R201, by name. The reserved codes 12 to 15 are never returned, so they have no name. -/
inductive Status where
  | ok
  | stackOverflow
  | stackUnderflow
  | programCounterOutOfBounds
  | addressRegisterOutOfBounds
  | invalidMemoryAccess
  | invalidRegisterAccess
  | invalidPixelAccess
  | invalidPixelValue
  | invalidKeyAccess
  | presentationFailed
  | illegalCommand
  deriving DecidableEq, Repr

/-- The response to one command: `(status, rdata)` (R72). -/
structure Response where
  status : Status
  rdata : Word
  deriving DecidableEq, Repr

/-- The tone generator's two states (R37, R170). -/
inductive Tone where
  | idle
  | sounding
  deriving DecidableEq, Repr

/-- The audio sink: the waveforms queued, the one playing first, and the playing flag. The spec's `q` is the queue's length
(R173; log entry 7). -/
structure Sink where
  queue : List Waveform
  playing : Bool
  deriving DecidableEq, Repr

/-- The answers the Surface gives to the next call of each of its three operations (R151; log entry 2). -/
structure Surface where
  isOpen : Bool
  quit : Bool
  accepts : Bool
  deriving DecidableEq, Repr

/-- The device buffer: `(64*S) * (32*S)` entries, row-major (R36, R155). -/
abbrev DevBuf := Vector DevPixel devSize

/-- One call of `surface.submit(buf, W, H)` and its answer (R150, R151; log entry 5). -/
structure Submission where
  image : DevBuf
  width : Nat
  height : Nat
  accepted : Bool
  deriving DecidableEq, Repr

/-- A store of 8-bit cells that read 0 until they are written: the cells that hold another value, by rising index. -/
abbrev Memory := List Host.Cell

/-- The machine's state. -/
structure State where
  /-- Program counter (R23). -/
  pc : Word
  /-- General registers `x[0]` to `x[15]` (R20). -/
  x : Vector Byte numRegs
  /-- Address register (R26). -/
  I : Word
  /-- Stack pointer, 5 bits, legal values 0 to 16 (R28). -/
  sp : BitVec 5
  /-- Stack slots (R28). -/
  stack : Vector Word stackDepth
  /-- Memory cells 0 to 4095 (R31). -/
  mem : Memory
  /-- Framebuffer cells 0 to 2047, each 0 or 1 (R32). -/
  fb : Memory
  /-- Keyboard latch (R34). -/
  key : Vector Bool numKeys
  /-- Delay timer (R35). -/
  dt : Byte
  /-- Sound timer (R35). -/
  st : Byte
  /-- Tone generator state (R37). -/
  tone : Tone
  /-- Device buffer (R36). -/
  devbuf : DevBuf
  /-- Environment: the audio sink (R39, R173). -/
  sink : Sink
  /-- Environment: the surface's next answers (R39, R151). -/
  surface : Surface
  /-- Environment: the last submission to the surface, none before the first (R150; log entry 5). The model's own field. -/
  submitted : Option Submission
  /-- Index of the environment's next free draws (log entry 2). The model's own field. -/
  draws : Nat
  /-- Command words issued and not yet taken, in the order of issue (R60, R70; log entry 1). The model's own field. -/
  port : List CmdWord
  /-- The response to the last command, none before the first (R72; log entry 4). The model's own field. -/
  resp : Option Response
  deriving DecidableEq, Repr

/-- The reasons a step stops. -/
inductive Fault where
  /-- Raised by PUSH and POP at a stack pointer above 16, whose slot does not exist (R28, R50). Safe: no run from
  `State.reset` reaches such a state (log entry 6). -/
  | stackSlotMissing
  deriving DecidableEq, Repr

/-- The reasons an instruction is given no meaning. -/
inductive Refusal where
  /-- Raised by no arm of `exec`: every instruction has its meaning. Safe. -/
  | notModelled (mnemonic : String)
  deriving DecidableEq, Repr

/-- The Surface's answers at draw `n`: free, and independent of each other (R151, D19). -/
def Surface.drawn (n : Nat) : Surface :=
  { isOpen := Config.surfaceIsOpen n, quit := Config.surfaceQuit n, accepts := Config.surfaceAccepts n }

/-- The machine right after creation (R230, R231). The device buffer holds free values (log entry 3), the Surface's answers
are the free draws of index 0 (log entry 2), and no command has been issued (log entry 1). -/
def State.reset : State where
  pc := programLoadAddr
  x := Vector.replicate numRegs 0
  I := 0
  sp := 0
  stack := Vector.replicate stackDepth 0
  mem := []
  fb := []
  key := Vector.replicate numKeys false
  dt := 0
  st := 0
  tone := .idle
  devbuf := Vector.ofFn fun q => Config.initialDevPixel q.val
  sink := { queue := [], playing := false }
  surface := Surface.drawn 0
  submitted := none
  draws := 0
  port := []
  resp := none

end Sys2Proof.Machine
end

