-- ==== Sys2Proof/Machine/Ops.lean ====
section
/-! DEFINITION. The named operations over the state: the cell store, one accessor pair for each index space (R50), the
response of a command (R72) and its one failure operation (R202), and the calls to the Sink and the Surface (R151, R173). -/

namespace Sys2Proof.Machine

/-- What a step or a meaning answers. -/
abbrev Result := Host.Outcome State Fault Refusal

/-! ### The cell store -/

/-- The cell at index `k`: 0 unless the store lists it (R31, R33: every cell is 0 at creation). -/
def Memory.read : Memory → Nat → Byte
  | [], _ => 0
  | c :: m, k => if c.1 = k then c.2 else Memory.read m k

/-- Put a cell before the first one of a higher index. -/
def Memory.insert : Memory → Host.Cell → Memory
  | [], c => [c]
  | d :: m, c => if c.1 < d.1 then c :: d :: m else d :: Memory.insert m c

/-- Drop the cell at index `k`. -/
def Memory.erase (m : Memory) (k : Nat) : Memory := m.filter fun c => c.1 != k

/-- Set the cell at index `k` and no other. A cell set to 0 is not listed. -/
def Memory.write (m : Memory) (k : Nat) (v : Byte) : Memory :=
  if v = 0 then Memory.erase m k else Memory.insert (Memory.erase m k) (k, v)

/-- Indexes strictly rise. -/
def Memory.sorted : Memory → Bool
  | [] => true
  | [_] => true
  | c :: d :: m => decide (c.1 < d.1) && Memory.sorted (d :: m)

/-- The canonical form of a store of `size` cells: indexes strictly rise, each below `size`, and no listed cell is 0. -/
def Memory.wf (size : Nat) (m : Memory) : Bool :=
  Memory.sorted m && m.all fun c => decide (c.1 < size) && c.2 != 0

/-! ### The index spaces (R50) -/

/-- `MemRead(a, 1)` (R10, R51). -/
def State.readMem (s : State) (a : Fin memSize) : Byte := Memory.read s.mem a

/-- `MemWrite(a, 1, v)` (R10, R51). -/
def State.writeMem (s : State) (a : Fin memSize) (v : Byte) : State := { s with mem := Memory.write s.mem a v }

/-- `x[r]` (R10, R20). No register is hardwired (R20). -/
def State.readReg (s : State) (r : Fin numRegs) : Byte := s.x[r]

/-- `x[r] <- v` (R10, R20). -/
def State.writeReg (s : State) (r : Fin numRegs) (v : Byte) : State := { s with x := s.x.set r v }

/-- `fb[p]` (R10, R32). -/
def State.readPix (s : State) (p : Fin numPixels) : Byte := Memory.read s.fb p

/-- `fb[p] <- v` (R10, R32). -/
def State.writePix (s : State) (p : Fin numPixels) (v : Byte) : State := { s with fb := Memory.write s.fb p v }

/-- `key[k]` (R10, R34). -/
def State.readKey (s : State) (k : Fin numKeys) : Bool := s.key[k]

/-- `key[k] <- b` (R10, R34). -/
def State.writeKey (s : State) (k : Fin numKeys) (b : Bool) : State := { s with key := s.key.set k b }

/-- `stack[k]` (R10, R28). -/
def State.readSlot (s : State) (k : Fin stackDepth) : Word := s.stack[k]

/-- `stack[k] <- v` (R10, R28). -/
def State.writeSlot (s : State) (k : Fin stackDepth) (v : Word) : State := { s with stack := s.stack.set k v }

/-! ### The response of a command -/

/-- `respond(status, rdata)`: end the command with its response (R10, R72). -/
def respond (status : Status) (rdata : Word) (s : State) : State :=
  { s with resp := some { status := status, rdata := rdata } }

/-- A command that succeeds with read data: `respond(OK, rdata)`. -/
def answer (rdata : Word) (s : State) : Result := .next (respond .ok rdata s)

/-- A command that succeeds with no read data: `respond(OK, 0)` (R72). -/
def done (s : State) : Result := .next (respond .ok 0 s)

/-- `raise E`: `respond(E, 0)` with no state changed (R10, R202). This is the core's whole failure model: no trap is
entered, nothing is saved, and there is nothing to return from (R200, R204, R207, R208). -/
def raise (e : Status) (s : State) : Result := .next (respond e 0 s)

/-! ### The Sink's operations (R173) -/

/-- `q`, the number of waveforms queued, the one playing among them. -/
def Sink.q (k : Sink) : Nat := k.queue.length

/-- `sink.empty()`. -/
def Sink.isEmpty (k : Sink) : Bool := k.q == 0

/-- `sink.enqueue(w)`. -/
def Sink.enqueue (k : Sink) (w : Waveform) : Sink := { k with queue := k.queue ++ [w] }

/-- `sink.resume()`. -/
def Sink.resume (k : Sink) : Sink := { k with playing := true }

/-- `sink.pause()`. -/
def Sink.pause (k : Sink) : Sink := { k with playing := false }

/-- `sink.clear()`. -/
def Sink.clear (k : Sink) : Sink := { k with queue := [] }

/-- The Sink's own step: while `playing` and `q > 0`, one waveform ends, `q <- q - 1` (R173). -/
def Sink.drain (k : Sink) : Sink := { k with queue := if k.playing then k.queue.drop 1 else k.queue }

/-- `n` tries of the drain step, one after another. -/
def Sink.drains (n : Nat) (k : Sink) : Sink := { k with queue := if k.playing then k.queue.drop n else k.queue }

/-! ### The environment's moves between commands -/

/-- What the Sink and the Surface do between two commands: some number of drains, and new answers of the Surface (R151, R173,
R206). Both are free draws (log entry 2). No core state changes (R216). -/
def environment (s : State) : State :=
  { s with
    sink := s.sink.drains (Config.sinkDrains s.draws)
    surface := Surface.drawn (s.draws + 1)
    draws := s.draws + 1 }

end Sys2Proof.Machine
end

