-- ==== Sys2Proof/Machine/Operands.lean ====
section
/-! DEFINITION. The operand forms (R73): an index checked on its full 16 bits against the size of its space, zero extension
to the read data, and the pixel value domain. -/

namespace Sys2Proof.Machine

/-- `check idx < N` (R50, R73): the index inside a space of `n` cells, none where it is out of range. -/
def indexOf (n : Nat) (k : Nat) : Option (Fin n) := if h : k < n then some ⟨k, h⟩ else none

/-- An index operand compared as an unsigned number on all its 16 bits (R71, R73). -/
def indexOperand (n : Nat) (idx : Word) : Option (Fin n) := indexOf n idx.toNat

/-- `zext_16` of an 8-bit value (R10, R72). -/
def zext8 (v : Byte) : Word := v.setWidth 16

/-- `zext_16` of the stack pointer (R10, R106). -/
def zextSp (v : BitVec 5) : Word := v.setWidth 16

/-- A boolean as read data: 1 or 0 (R126, R152). -/
def boolData (b : Bool) : Word := if b then 1 else 0

/-- The pixel values WRPIX accepts: 0 and 1 (R32, R125). -/
def pixelValueOk (v : Byte) : Bool := v == 0 || v == 1

end Sys2Proof.Machine
end

