-- ==== Sys2Proof/Machine/Indexed.lean ====
section
/-! DEFINITION. Family 41: RDMEM, WRMEM, RDREG, WRREG, RDPIX, WRPIX, RDKEY, WRKEY (41_indexed_access.md). Each is
`check idx < N; check value; access`, and a failed check changes nothing (R202). -/

namespace Sys2Proof.Machine

/-- RDMEM (R120). -/
def execRdmem (a : Word) (s : State) : Result :=
  match indexOperand memSize a with
  | none => raise .invalidMemoryAccess s
  | some i => answer (zext8 (s.readMem i)) s

/-- WRMEM (R121). -/
def execWrmem (a : Word) (v8 : Byte) (s : State) : Result :=
  match indexOperand memSize a with
  | none => raise .invalidMemoryAccess s
  | some i => done (s.writeMem i v8)

/-- RDREG (R122). -/
def execRdreg (r : Word) (s : State) : Result :=
  match indexOperand numRegs r with
  | none => raise .invalidRegisterAccess s
  | some i => answer (zext8 (s.readReg i)) s

/-- WRREG (R123). -/
def execWrreg (r : Word) (v8 : Byte) (s : State) : Result :=
  match indexOperand numRegs r with
  | none => raise .invalidRegisterAccess s
  | some i => done (s.writeReg i v8)

/-- RDPIX (R124). -/
def execRdpix (p : Word) (s : State) : Result :=
  match indexOperand numPixels p with
  | none => raise .invalidPixelAccess s
  | some i => answer (zext8 (s.readPix i)) s

/-- WRPIX (R125): the index check comes before the value check (R206, D12). -/
def execWrpix (p : Word) (v8 : Byte) (s : State) : Result :=
  match indexOperand numPixels p with
  | none => raise .invalidPixelAccess s
  | some i => if pixelValueOk v8 then done (s.writePix i v8) else raise .invalidPixelValue s

/-- RDKEY (R126). -/
def execRdkey (k : Word) (s : State) : Result :=
  match indexOperand numKeys k with
  | none => raise .invalidKeyAccess s
  | some i => answer (boolData (s.readKey i)) s

/-- WRKEY (R127). -/
def execWrkey (k : Word) (b : Bool) (s : State) : Result :=
  match indexOperand numKeys k with
  | none => raise .invalidKeyAccess s
  | some i => done (s.writeKey i b)

end Sys2Proof.Machine
end

