-- ==== Sys2Proof/Machine/Renderer.lean ====
section
/-! DEFINITION. Family 43: RENDER and LIVE (43_renderer.md). -/

namespace Sys2Proof.Machine

/-- The colour of a logical pixel: the foreground for 1, the background otherwise (R150). -/
def colourOf {α : Type} (fg bg : α) (pixel : Byte) : α := if pixel = 1 then fg else bg

/-- The writes `devbuf[q] <- c` of R150 in their order, for a `w` by `h` logical buffer at scale `S`: the loops over `y`, `x`,
`dy`, `dx`, with row width `w*S` and `q = (y*S + dy)*(w*S) + (x*S + dx)`. -/
def blockWrites {α : Type} (w h S : Nat) (colour : Nat → α) : List (Nat × α) :=
  (List.range h).flatMap fun y =>
    (List.range w).flatMap fun x =>
      (List.range S).flatMap fun dy =>
        (List.range S).map fun dx => ((y * S + dy) * (w * S) + (x * S + dx), colour (y * w + x))

/-- Do a list of writes to a buffer, one after another. -/
def applyWrites {α : Type} {n : Nat} (buf : Vector α n) (writes : List (Nat × α)) : Vector α n :=
  writes.foldl (fun b c => b.setIfInBounds c.1 c.2) buf

/-- The device buffer after the loops of R150. -/
def State.scaled (s : State) : DevBuf :=
  applyWrites s.devbuf
    (blockWrites fbWidth fbHeight Config.scale fun p => colourOf Config.fgColor Config.bgColor (Memory.read s.fb p))

/-- `surface.submit(devbuf, W, H)`: one update, the whole buffer (R150, R155). The Surface's answer is a free draw (R151). -/
def State.submit (s : State) : State :=
  { s with
    submitted := some
      { image := s.devbuf, width := devWidth, height := devHeight, accepted := s.surface.accepts } }

/-- The status of RENDER, from the Surface's answer to the submission (R150). -/
def renderStatus (accepted : Bool) : Status := if accepted then .ok else .presentationFailed

/-- RENDER (R150). The image is computed before it is submitted, so a failed submission leaves it in `devbuf` (D18). -/
def execRender (s : State) : Result :=
  .next (respond (renderStatus s.surface.accepts) 0 { s with devbuf := s.scaled }.submit)

/-- LIVE (R152): open and no quit. -/
def execLive (s : State) : Result := answer (boolData (s.surface.isOpen && !s.surface.quit)) s

end Sys2Proof.Machine
end

