-- ==== Sys2Proof/Machine/StackPointers.lean ====
section
/-! DEFINITION. Family 40: PUSH, POP, SETPC, SETI, GETPC, GETI, GETSP (40_stack_and_pointers.md). -/

namespace Sys2Proof.Machine

/-- PUSH (R100). A stack pointer above 16 addresses no slot and faults (log entry 6). -/
def execPush (v16 : Word) (s : State) : Result :=
  if s.sp = 16 then raise .stackOverflow s
  else
    match indexOf stackDepth s.sp.toNat with
    | none => .fault .stackSlotMissing
    | some k => done { s.writeSlot k v16 with sp := s.sp + 1 }

/-- POP (R101): answers the slot at the new `sp` and does not clear it. A stack pointer above 16 addresses no slot and
faults (log entry 6). -/
def execPop (s : State) : Result :=
  if s.sp = 0 then raise .stackUnderflow s
  else
    match indexOf stackDepth (s.sp - 1).toNat with
    | none => .fault .stackSlotMissing
    | some k => answer (s.readSlot k) { s with sp := s.sp - 1 }

/-- SETPC (R102): tests the incoming value, then writes (R236). -/
def execSetpc (v16 : Word) (s : State) : Result :=
  if v16.toNat > pcLimit then raise .programCounterOutOfBounds s
  else done { s with pc := v16 }

/-- SETI (R103): tests the incoming value, then writes (R236). -/
def execSeti (v16 : Word) (s : State) : Result :=
  if v16.toNat ≥ memSize then raise .addressRegisterOutOfBounds s
  else done { s with I := v16 }

/-- GETPC (R104). -/
def execGetpc (s : State) : Result := answer s.pc s

/-- GETI (R105). -/
def execGeti (s : State) : Result := answer s.I s

/-- GETSP (R106). -/
def execGetsp (s : State) : Result := answer (zextSp s.sp) s

end Sys2Proof.Machine
end

