-- ==== Sys2Proof/Machine/Timers.lean ====
section
/-! DEFINITION. Family 42: SETDT, SETST, TICK, GETDT, GETST (42_timers.md). -/

namespace Sys2Proof.Machine

/-- One tick of one timer: down by one, and 0 stays 0 (R142). It never wraps (90 C1). -/
def countDown (v : Byte) : Byte := if v = 0 then 0 else v - 1

/-- SETDT (R140). -/
def execSetdt (v8 : Byte) (s : State) : Result := done { s with dt := v8 }

/-- SETST (R141). -/
def execSetst (v8 : Byte) (s : State) : Result := done { s with st := v8 }

/-- TICK (R142): both timers, at one rate (R145). -/
def execTick (s : State) : Result := done { s with dt := countDown s.dt, st := countDown s.st }

/-- GETDT (R143). -/
def execGetdt (s : State) : Result := answer (zext8 s.dt) s

/-- GETST (R144). -/
def execGetst (s : State) : Result := answer (zext8 s.st) s

end Sys2Proof.Machine
end

