-- ==== Sys2Proof/Machine/ToneGate.lean ====
section
/-! DEFINITION. Family 44: BEEPON and BEEPOFF (44_tone_gate.md). -/

namespace Sys2Proof.Machine

/-- The re-synchronization check of BEEPON: an empty sink makes the state `Idle` whatever it was (R170, R171). -/
def resync (sinkEmpty : Bool) (t : Tone) : Tone := if sinkEmpty then .idle else t

/-- Start one tone: enqueue the one fixed waveform, begin playback, `tone <- Sounding` (R171, R174). -/
def State.startTone (s : State) : State :=
  { s with sink := (s.sink.enqueue Config.tone).resume, tone := .sounding }

/-- BEEPON (R171): the sink's emptiness is read once, at the start (R62); already Sounding with a tone in flight is a
no-op. -/
def execBeepon (s : State) : Result :=
  if resync s.sink.isEmpty s.tone = .idle then done s.startTone
  else done { s with tone := resync s.sink.isEmpty s.tone }

/-- BEEPOFF (R172). -/
def execBeepoff (s : State) : Result := done { s with sink := s.sink.pause.clear, tone := .idle }

end Sys2Proof.Machine
end

