-- ==== Sys2Proof/Machine/Dispatch.lean ====
section
/-! DEFINITION. One arm for each command: a direct call of its meaning (R75). -/

namespace Sys2Proof.Machine

def exec (i : Instr) (s : State) : Host.Outcome State Fault Refusal :=
  match i with
  | .push v16 => Sys2Proof.Machine.execPush v16 s
  | .pop => Sys2Proof.Machine.execPop s
  | .setpc v16 => Sys2Proof.Machine.execSetpc v16 s
  | .seti v16 => Sys2Proof.Machine.execSeti v16 s
  | .rdmem a => Sys2Proof.Machine.execRdmem a s
  | .wrmem a v8 => Sys2Proof.Machine.execWrmem a v8 s
  | .rdreg r => Sys2Proof.Machine.execRdreg r s
  | .wrreg r v8 => Sys2Proof.Machine.execWrreg r v8 s
  | .rdpix p => Sys2Proof.Machine.execRdpix p s
  | .wrpix p v8 => Sys2Proof.Machine.execWrpix p v8 s
  | .rdkey k => Sys2Proof.Machine.execRdkey k s
  | .wrkey k b => Sys2Proof.Machine.execWrkey k b s
  | .setdt v8 => Sys2Proof.Machine.execSetdt v8 s
  | .setst v8 => Sys2Proof.Machine.execSetst v8 s
  | .tick => Sys2Proof.Machine.execTick s
  | .render => Sys2Proof.Machine.execRender s
  | .live => Sys2Proof.Machine.execLive s
  | .beepon => Sys2Proof.Machine.execBeepon s
  | .beepoff => Sys2Proof.Machine.execBeepoff s
  | .getpc => Sys2Proof.Machine.execGetpc s
  | .geti => Sys2Proof.Machine.execGeti s
  | .getsp => Sys2Proof.Machine.execGetsp s
  | .getdt => Sys2Proof.Machine.execGetdt s
  | .getst => Sys2Proof.Machine.execGetst s

end Sys2Proof.Machine
end

