-- ==== Sys2Proof/Machine/Step.lean ====
section
/-! DEFINITION. One step of the machine: the core takes the next command word, executes it completely and answers it (R70),
then the environment moves (R151, R173). -/

namespace Sys2Proof.Machine

/-- Run one command word: an illegal word answers `(IllegalCommand, 0)` and changes nothing (R76, R77). -/
def runWord (w : CmdWord) (s : State) : Host.Outcome State Fault Refusal :=
  match decode w with
  | .error _ => raise .illegalCommand s
  | .ok i => exec i s

/-- The environment moves after the command, never inside it (R56, R206). -/
def afterCommand : Host.Outcome State Fault Refusal → Host.Outcome State Fault Refusal
  | .next s => .next (environment s)
  | .fault f => .fault f
  | .refused r => .refused r

/-- One step. Where no command word has been issued the core waits and only the environment moves (R216; log entry 1). -/
def step (s : State) : Host.Outcome State Fault Refusal :=
  match s.port with
  | [] => .next (environment s)
  | w :: rest => afterCommand (runWord w { s with port := rest })

/-- Issue the command word whose bits are `w` on the port, so that the next step takes it (R70; log entry 1). -/
def State.withFetchWord (s : State) (nbits w : Nat) : State := { s with port := tableWord nbits w :: s.port }

end Sys2Proof.Machine
end

