-- ==== Sys2Proof/Machine/Flags.lean ====
section
/-! DEFINITION. The core has no flag or condition-code register (R38), so no instruction computes a flag. What an
instruction reports is its 4-bit status; this file gives the codes of R201. -/

namespace Sys2Proof.Machine

/-- The 4-bit status codes (R201). -/
def Status.code : Status → BitVec 4
  | .ok => 0
  | .stackOverflow => 1
  | .stackUnderflow => 2
  | .programCounterOutOfBounds => 3
  | .addressRegisterOutOfBounds => 4
  | .invalidMemoryAccess => 5
  | .invalidRegisterAccess => 6
  | .invalidPixelAccess => 7
  | .invalidPixelValue => 8
  | .invalidKeyAccess => 9
  | .presentationFailed => 10
  | .illegalCommand => 11

/-- The response as the pair the port carries: the 4-bit status code and the read data (R72). -/
def Response.pair (r : Response) : BitVec 4 × Word := (r.status.code, r.rdata)

end Sys2Proof.Machine
end

