-- ==== Sys2Proof/Machine/Loop.lean ====
section
/-! DEFINITION. The callers' side: who may issue what (R211), the GATE macro (R80, R175), boot (R232) and one iteration of the
Host's driving loop (R234). These are duties of the Host and the Engine, not core behaviour (D25): everything here issues
commands on the port and reads responses. -/

namespace Sys2Proof.Machine

/-- What the Engine may issue: the §4.1 commands and the five GET commands; RENDER, LIVE, BEEPON and BEEPOFF are the Host's
alone (R6, R211, D26). The Host may issue any command. -/
def engineMayIssue : Mnemonic → Bool
  | .push => true
  | .pop => true
  | .setpc => true
  | .seti => true
  | .rdmem => true
  | .wrmem => true
  | .rdreg => true
  | .wrreg => true
  | .rdpix => true
  | .wrpix => true
  | .rdkey => true
  | .wrkey => true
  | .setdt => true
  | .setst => true
  | .tick => true
  | .render => false
  | .live => false
  | .beepon => false
  | .beepoff => false
  | .getpc => true
  | .geti => true
  | .getsp => true
  | .getdt => true
  | .getst => true

/-- Go on with the next state; a fault or a refusal ends the run. -/
def andThen {σ τ : Type} (r : Host.Outcome σ Fault Refusal) (k : σ → Host.Outcome τ Fault Refusal) :
    Host.Outcome τ Fault Refusal :=
  match r with
  | .next s => k s
  | .fault f => .fault f
  | .refused e => .refused e

/-- Issue one command and let the core take it: one step. -/
def issue (i : Instr) (s : State) : Result := step { s with port := encode i :: s.port }

/-- Issue commands one after another, each after the response to the one before (R60, R70). -/
def issueAll : List Instr → State → Result
  | [], s => .next s
  | i :: rest, s => andThen (issue i s) (issueAll rest)

/-- GATE's choice from the response to GETST: BEEPON where the sound timer is nonzero, else BEEPOFF (R175). -/
def gateCommand : Option Response → Instr
  | some r => if r.rdata = 0 then .beepoff else .beepon
  | none => .beepoff

/-- The Host macro GATE (R80, R175). -/
def gate (s : State) : Result := andThen (issue .getst s) fun t => issue (gateCommand t.resp) t

/-- The Engine's turn: at most `n` commands, each chosen from the responses so far, none to end the turn. The Engine is a
parameter, its policy on a failed command with it (R210, D36); a command that is not the Engine's to issue ends the turn
(R211). -/
def engineTurn (engine : List Response → Option Instr) : Nat → List Response → State → Result
  | 0, _, s => .next s
  | n + 1, seen, s =>
    match engine seen with
    | none => .next s
    | some i =>
      if engineMayIssue i.mnemonic then
        andThen (issue i s) fun t => engineTurn engine n (seen ++ t.resp.toList) t
      else .next s

/-- Whether the last response is LIVE's "open and no quit" (R152). -/
def saysLive (r : Option Response) : Bool :=
  match r with
  | some r => r.rdata == 1
  | none => false

/-- Step 4 of the loop: RENDER, unless LIVE has answered 0 once, now or before (R152, R234). `rendering` says that it has not,
and the answer says so again. What the Host does after a RENDER that answers PresentationFailed is the caller's to decide (R210)
and open. DESIGN CHOICE (log entry 17): the Host goes on with its loop and goes on rendering. -/
def present (rendering : Bool) (s : State) : Host.Outcome (State × Bool) Fault Refusal :=
  if rendering then
    andThen (issue .live s) fun t =>
      if saysLive t.resp then andThen (issue .render t) fun u => .next (u, true) else .next (t, false)
  else .next (s, false)

/-- One iteration of the driving loop, in the order of R234: WRKEY for the keys read, the Engine's commands, TICK, RENDER,
GATE (log entry 11). The Host acts on the answers to LIVE and GETST alone; on any other command's failure it goes on (R210; log
entry 17). -/
def loopIteration (engine : List Response → Option Instr) (keys : List (Word × Bool)) (rendering : Bool) (s : State) :
    Host.Outcome (State × Bool) Fault Refusal :=
  andThen (issueAll (keys.map fun k => .wrkey k.1 k.2) s) fun s1 =>
    andThen (engineTurn engine Config.cmdsPerTick [] s1) fun s2 =>
      andThen (issue .tick s2) fun s3 =>
        andThen (present rendering s3) fun s4 =>
          andThen (gate s4.1) fun s5 => .next (s5, s4.2)

/-- The WRMEM commands that load an image at consecutive addresses from an address on (R232). What the Host does with an image
that does not fit is open. DESIGN CHOICE (log entry 16): it issues a WRMEM for each byte whose address an index can present (D9),
whatever the answers, and none for the bytes after; no address wraps. -/
def loadCommands : Nat → List Byte → List Instr
  | _, [] => []
  | a, b :: rest => if a < 65536 then .wrmem (BitVec.ofNat 16 a) b :: loadCommands (a + 1) rest else []

/-- Boot: the Host writes the program image from `PROGRAM_LOAD_ADDR` on (R232; log entry 16). -/
def boot (image : List Byte) (s : State) : Result := issueAll (loadCommands programLoadAddr.toNat image) s

end Sys2Proof.Machine
end

