-- ==== Sys2Proof/Safety.lean ====
section
/-! DEFINITION. The terms claims are made in: the invariants of the core (R41, R176), what "machine state" and "core state"
cover (R154, R202), and runs of commands. -/

namespace Sys2Proof.Machine

/-! ### Invariants -/

/-- The canonical form of the framebuffer: a store of 2048 cells whose listed cells hold 1, so every pixel is 0 or 1 (R32). -/
def pixelsWf (fb : Memory) : Bool := Memory.wf numPixels fb && fb.all fun c => c.2 == 1

/-- The tone gate's two invariants (R176): a queued waveform means Sounding, and no two waveforms are queued. -/
structure State.ToneGate (s : State) : Prop where
  sounding : 0 < s.sink.q → s.tone = .sounding
  atMostOne : s.sink.q ≤ 1

/-- The invariants of R41 with the canonical form of the two cell stores and the tone gate's (R176). -/
structure State.Inv (s : State) : Prop where
  pc : s.pc.toNat ≤ pcLimit
  I : s.I.toNat < memSize
  sp : s.sp.toNat ≤ stackDepth
  mem : Memory.wf memSize s.mem = true
  fb : pixelsWf s.fb = true
  tone : s.ToneGate

/-! ### What a command leaves alone -/

/-- The machine state of R154 but `tone`: everything the Machine State component owns (R2, R177). -/
structure State.SameMachine (s t : State) : Prop where
  pc : t.pc = s.pc
  x : t.x = s.x
  I : t.I = s.I
  sp : t.sp = s.sp
  stack : t.stack = s.stack
  mem : t.mem = s.mem
  fb : t.fb = s.fb
  key : t.key = s.key
  dt : t.dt = s.dt
  st : t.st = s.st

/-- The core state of R202 and R40: the machine state, `tone` and `devbuf`. -/
structure State.SameCore (s t : State) : Prop where
  machine : s.SameMachine t
  tone : t.tone = s.tone
  devbuf : t.devbuf = s.devbuf

/-! ### Responses -/

/-- The response `(OK, rdata)`. -/
abbrev okResp (rdata : Word) : Option Response := some { status := .ok, rdata := rdata }

/-- The response `(E, 0)` of a failure. -/
abbrev failResp (e : Status) : Option Response := some { status := e, rdata := 0 }

/-! ### Runs of commands -/

/-- Execute decoded commands one after another, with no move of the environment between them. -/
def execAll : List Instr → State → Result
  | [], s => .next s
  | i :: rest, s => andThen (exec i s) (execAll rest)

/-- A stack command: PUSH of a value, or POP (R107). -/
def stackInstr : Option Word → Instr
  | some v => .push v
  | none => .pop

/-- Execute stack commands one after another and collect their responses, oldest first. -/
def stackRun : List (Option Word) → State → Option (List Response)
  | [], _ => some []
  | c :: rest, s =>
    match exec (stackInstr c) s with
    | .next t =>
      match t.resp, stackRun rest t with
      | some r, some rs => some (r :: rs)
      | _, _ => none
    | _ => none

/-- A last-in-first-out store of depth 16, the latest value first: what R107 says the stack behaves as. -/
def lifoRun : List (Option Word) → List Word → List Response
  | [], _ => []
  | some v :: rest, held =>
    if held.length = stackDepth then { status := .stackOverflow, rdata := 0 } :: lifoRun rest held
    else { status := .ok, rdata := 0 } :: lifoRun rest (v :: held)
  | none :: rest, [] => { status := .stackUnderflow, rdata := 0 } :: lifoRun rest []
  | none :: rest, v :: held => { status := .ok, rdata := v } :: lifoRun rest held

/-- The occupied stack slots, the top one first (R28). -/
def State.unmatched (s : State) : List Word := (s.stack.toList.take s.sp.toNat).reverse

end Sys2Proof.Machine
end

