-- ==== Sys2Proof/Certificates/Slice0/Obligations.lean ====
section
/-! DEFINITION. The statements for the provers. Each docstring names the rules it formalises; where a clause rests on one of the
spec's own decisions (92_eei_decisions.md D<n>) or on the model's (a log entry), it says so. -/

open Sys2Proof Sys2Proof.Machine

/-! ### Creation -/

/-- R22, R25, R27, R30: the register values at creation. -/
def Obligations.CreationGivesRegisterValues : Prop :=
  State.reset.pc = 0x200 ∧ (∀ r, State.reset.readReg r = 0) ∧ State.reset.I = 0 ∧ State.reset.sp = 0 ∧
    (∀ k, State.reset.readSlot k = 0)

/-- R31, R33, R34, R35, R37, R173: memory, pixels, keys and timers are zero at creation, and nothing sounds. The tone's and the
Sink's values are the spec's decision D22, memory holding no font its decision D29. -/
def Obligations.CreationIsAllZeroAndSilent : Prop :=
  (∀ a, State.reset.readMem a = 0) ∧ (∀ p, State.reset.readPix p = 0) ∧ (∀ k, State.reset.readKey k = false) ∧
    State.reset.dt = 0 ∧ State.reset.st = 0 ∧ State.reset.tone = .idle ∧ State.reset.sink.q = 0 ∧
    State.reset.sink.playing = false

/-- R41, R176: the invariants hold at creation. -/
def Obligations.CreationMeetsInvariant : Prop := State.reset.Inv

/-! ### Family 40 -/

/-- R100: PUSH, on every legal stack pointer; that every 16-bit value is accepted is the spec's decision D34. -/
def Obligations.PushStoresAtSpOrOverflows : Prop :=
  ∀ (s : State) (v : Word),
    (s.sp.toNat = 16 → exec (.push v) s = .next { s with resp := failResp .stackOverflow }) ∧
    (∀ h : s.sp.toNat < 16,
      exec (.push v) s =
        .next { s with stack := s.stack.set s.sp.toNat v h, sp := s.sp + 1, resp := okResp 0 } ∧
      (s.sp + 1).toNat = s.sp.toNat + 1)

/-- R101: POP, on every legal stack pointer; that it answers the popped slot is the spec's decision D8. -/
def Obligations.PopAnswersTopOrUnderflows : Prop :=
  ∀ (s : State),
    (s.sp.toNat = 0 → exec .pop s = .next { s with resp := failResp .stackUnderflow }) ∧
    (∀ (_ : 0 < s.sp.toNat) (h : s.sp.toNat - 1 < 16),
      exec .pop s = .next { s with sp := s.sp - 1, resp := okResp s.stack[s.sp.toNat - 1] } ∧
      (s.sp - 1).toNat = s.sp.toNat - 1)

/-- R28, R50: a stack pointer above 16 is not a legal value and its slot does not exist; the model stops there by name. The
model's choice, log entry 6. -/
def Obligations.IllegalStackPointerStops : Prop :=
  ∀ (s : State) (v : Word),
    (16 < s.sp.toNat → exec (.push v) s = .fault .stackSlotMissing) ∧
    (16 < s.sp.toNat → exec .pop s = .fault .stackSlotMissing)

/-- R107 (the spec's own derivation from R100 and R101): from any legal stack pointer, any sequence of PUSH and POP answers as
a last-in-first-out store of depth 16 that holds the occupied slots. -/
def Obligations.StackIsLifoOfDepthSixteen : Prop :=
  ∀ (cmds : List (Option Word)) (s : State), s.sp.toNat ≤ 16 →
    stackRun cmds s = some (lifoRun cmds s.unmatched)

/-- R102, R236: SETPC tests the incoming value; that 4094 itself is accepted is the spec's decision D10. -/
def Obligations.SetpcTestsIncomingValue : Prop :=
  ∀ (s : State) (v : Word),
    (4094 < v.toNat → exec (.setpc v) s = .next { s with resp := failResp .programCounterOutOfBounds }) ∧
    (v.toNat ≤ 4094 → exec (.setpc v) s = .next { s with pc := v, resp := okResp 0 })

/-- R103: SETI tests the incoming value; with its encoding. -/
def Obligations.SetiTestsIncomingValue : Prop :=
  ∀ (s : State) (v : Word),
    (4096 ≤ v.toNat → exec (.seti v) s = .next { s with resp := failResp .addressRegisterOutOfBounds }) ∧
    (v.toNat < 4096 → exec (.seti v) s = .next { s with I := v, resp := okResp 0 }) ∧
    encode (.seti v) = encodeFields 0x04 0 v

/-- R104, R105, R106, R143, R144: the five read commands the spec adds (its decision D7) answer their register,
zero-extended, and change nothing; in a state that meets the invariant, `I` reads below 4096 and `sp` at most 16. -/
def Obligations.GetCommandsAnswerTheirRegister : Prop :=
  ∀ (s : State),
    exec .getpc s = .next { s with resp := okResp s.pc } ∧
    exec .geti s = .next { s with resp := okResp s.I } ∧
    (∃ d, exec .getsp s = .next { s with resp := okResp d } ∧ d.toNat = s.sp.toNat) ∧
    (∃ d, exec .getdt s = .next { s with resp := okResp d } ∧ d.toNat = s.dt.toNat) ∧
    (∃ d, exec .getst s = .next { s with resp := okResp d } ∧ d.toNat = s.st.toNat) ∧
    (s.Inv → s.I.toNat < 4096 ∧ s.sp.toNat ≤ 16)

/-- R239 (the spec's own derivation from R102 and R120): after SETPC has accepted a value, RDMEM at `pc` and at `pc + 1`
succeeds. -/
def Obligations.AcceptedPcIsFetchable : Prop :=
  ∀ (s t : State) (v : Word), exec (.setpc v) s = .next t → t.resp = okResp 0 →
    t.pc = v ∧ (t.pc + 1).toNat = t.pc.toNat + 1 ∧
    (∃ d, exec (.rdmem t.pc) t = .next { t with resp := okResp d }) ∧
    (∃ d, exec (.rdmem (t.pc + 1)) t = .next { t with resp := okResp d })

/-! ### Family 41 -/

/-- R51, R120, R121: RDMEM and WRMEM. WRMEM stores at `a` and every other cell reads as before. With their
encodings. -/
def Obligations.MemoryCommandsMoveOneCell : Prop :=
  ∀ (s : State) (a : Word) (v : Byte),
    (4096 ≤ a.toNat →
      exec (.rdmem a) s = .next { s with resp := failResp .invalidMemoryAccess } ∧
      exec (.wrmem a v) s = .next { s with resp := failResp .invalidMemoryAccess }) ∧
    (a.toNat < 4096 →
      exec (.rdmem a) s = .next { s with resp := okResp ((Memory.read s.mem a.toNat).setWidth 16) } ∧
      ∃ m, exec (.wrmem a v) s = .next { s with mem := m, resp := okResp 0 } ∧
        ∀ k, Memory.read m k = if k = a.toNat then v else Memory.read s.mem k) ∧
    encode (.rdmem a) = encodeFields 0x05 a 0 ∧ encode (.wrmem a v) = encodeFields 0x06 a (v.setWidth 16)

/-- R122, R123: RDREG and WRREG. Every register but `x[r]` is unchanged, and register 15 is like any other. With their
encodings. -/
def Obligations.RegisterCommandsMoveOneRegister : Prop :=
  ∀ (s : State) (r : Word) (v : Byte),
    (16 ≤ r.toNat →
      exec (.rdreg r) s = .next { s with resp := failResp .invalidRegisterAccess } ∧
      exec (.wrreg r v) s = .next { s with resp := failResp .invalidRegisterAccess }) ∧
    (∀ h : r.toNat < 16,
      exec (.rdreg r) s = .next { s with resp := okResp (s.x[r.toNat].setWidth 16) } ∧
      exec (.wrreg r v) s = .next { s with x := s.x.set r.toNat v h, resp := okResp 0 }) ∧
    encode (.rdreg r) = encodeFields 0x07 r 0 ∧ encode (.wrreg r v) = encodeFields 0x08 r (v.setWidth 16)

/-- R124: RDPIX. In a framebuffer of the right form the answer is 0 or 1. With its encoding. -/
def Obligations.RdpixAnswersPixel : Prop :=
  ∀ (s : State) (p : Word),
    (2048 ≤ p.toNat → exec (.rdpix p) s = .next { s with resp := failResp .invalidPixelAccess }) ∧
    (p.toNat < 2048 →
      exec (.rdpix p) s = .next { s with resp := okResp ((Memory.read s.fb p.toNat).setWidth 16) }) ∧
    (pixelsWf s.fb = true → (Memory.read s.fb p.toNat = 0 ∨ Memory.read s.fb p.toNat = 1)) ∧
    encode (.rdpix p) = encodeFields 0x09 p 0

/-- R125: WRPIX; that the index check wins where both fail is the spec's decision D12. Every other pixel reads as before. -/
def Obligations.WrpixChecksIndexThenValue : Prop :=
  ∀ (s : State) (p : Word) (v : Byte),
    (2048 ≤ p.toNat → exec (.wrpix p v) s = .next { s with resp := failResp .invalidPixelAccess }) ∧
    (p.toNat < 2048 → v ≠ 0 ∧ v ≠ 1 →
      exec (.wrpix p v) s = .next { s with resp := failResp .invalidPixelValue }) ∧
    (p.toNat < 2048 → v = 0 ∨ v = 1 →
      ∃ m, exec (.wrpix p v) s = .next { s with fb := m, resp := okResp 0 } ∧
        ∀ k, Memory.read m k = if k = p.toNat then v else Memory.read s.fb k)

/-- R126, R127: RDKEY and WRKEY. A latched key keeps its value under every command but a WRKEY to its index, and a WRKEY word
whose `data` is neither 0 nor 1 is refused at decode. With their encodings. -/
def Obligations.KeyCommandsLatchOneKey : Prop :=
  (∀ (s : State) (k : Word) (b : Bool),
    (16 ≤ k.toNat →
      exec (.rdkey k) s = .next { s with resp := failResp .invalidKeyAccess } ∧
      exec (.wrkey k b) s = .next { s with resp := failResp .invalidKeyAccess }) ∧
    (∀ h : k.toNat < 16,
      exec (.rdkey k) s = .next { s with resp := okResp (if s.key[k.toNat] then 1 else 0) } ∧
      exec (.wrkey k b) s = .next { s with key := s.key.set k.toNat b h, resp := okResp 0 })) ∧
  (∀ (i : Instr) (s t : State) (k : Fin 16), exec i s = .next t →
    (∀ n b, i = .wrkey n b → n.toNat ≠ k.val) → t.key[k] = s.key[k]) ∧
  (∀ w : CmdWord, opField w = 0x0C → dataField w ≠ 0 → dataField w ≠ 1 → decode w = .error .mustBeZeroSet) ∧
  (∀ (k : Word) (b : Bool),
    encode (.rdkey k) = encodeFields 0x0B k 0 ∧ encode (.wrkey k b) = encodeFields 0x0C k (if b then 1 else 0))

/-- R57: after a write, and any run of commands that does not write the same index, a read answers the written value, for
memory, registers, pixels of value 0 or 1, and keys. The part on the commands in between is the spec's own derivation. -/
def Obligations.WriteThenReadAnswersWrittenValue : Prop :=
  ∀ (s t : State) (between : List Instr),
    (∀ (a : Word) (v : Byte), a.toNat < 4096 → (∀ v', .wrmem a v' ∉ between) →
      issueAll (.wrmem a v :: between) s = .next t →
      exec (.rdmem a) t = .next { t with resp := okResp (v.setWidth 16) }) ∧
    (∀ (r : Word) (v : Byte), r.toNat < 16 → (∀ v', .wrreg r v' ∉ between) →
      issueAll (.wrreg r v :: between) s = .next t →
      exec (.rdreg r) t = .next { t with resp := okResp (v.setWidth 16) }) ∧
    (∀ (p : Word) (v : Byte), p.toNat < 2048 → v = 0 ∨ v = 1 → (∀ v', .wrpix p v' ∉ between) →
      issueAll (.wrpix p v :: between) s = .next t →
      exec (.rdpix p) t = .next { t with resp := okResp (v.setWidth 16) }) ∧
    (∀ (k : Word) (b : Bool), k.toNat < 16 → (∀ b', .wrkey k b' ∉ between) →
      issueAll (.wrkey k b :: between) s = .next t →
      exec (.rdkey k) t = .next { t with resp := okResp (if b then 1 else 0) })

/-! ### Family 42 -/

/-- R140, R141: SETDT and SETST set their timer and nothing else, and a timer set to 0 does not count. With
their encodings. -/
def Obligations.SetTimerCommandsSetOneTimer : Prop :=
  ∀ (s : State) (v : Byte),
    exec (.setdt v) s = .next { s with dt := v, resp := okResp 0 } ∧
    exec (.setst v) s = .next { s with st := v, resp := okResp 0 } ∧
    (∃ t, execAll [.setdt 0, .tick] s = .next t ∧ t.dt = 0) ∧
    (∃ t, execAll [.setst 0, .tick] s = .next t ∧ t.st = 0) ∧
    encode (.setdt v) = encodeFields 0x0D 0 (v.setWidth 16) ∧ encode (.setst v) = encodeFields 0x0E 0 (v.setWidth 16)

/-- R142: TICK takes each timer down by one and stops at 0. With its encoding. -/
def Obligations.TickSaturatesBothTimers : Prop :=
  ∀ (s : State), ∃ d e : Byte,
    exec .tick s = .next { s with dt := d, st := e, resp := okResp 0 } ∧
      d.toNat = s.dt.toNat - 1 ∧ e.toNat = s.st.toNat - 1 ∧ encode .tick = encodeFields 0x0F 0 0

/-- R146 (the spec's own derivation from R142): over any run of commands, a timer that no command sets falls by the number of
TICKs and stops at 0. -/
def Obligations.TimersFallByTheNumberOfTicks : Prop :=
  ∀ (cmds : List Instr) (s t : State), issueAll cmds s = .next t →
    ((∀ v, .setdt v ∉ cmds) → t.dt.toNat = s.dt.toNat - cmds.count .tick) ∧
    ((∀ v, .setst v ∉ cmds) → t.st.toNat = s.st.toNat - cmds.count .tick)

/-! ### Family 43 -/

/-- R153 (the spec's own derivation from R150): the nearest-neighbour replication law, with the submission of the whole image
and its width and height (R155), and the response, which follows the Surface's answer. The row-major layout is the spec's
decision D17, the new image staying after a failed submission its decision D18; that the submission is kept in a field is the
model's choice, log entry 5. Nothing else changes. -/
def Obligations.RenderReplicatesEachPixel : Prop :=
  ∀ (s : State), ∃ img : DevBuf,
    exec .render s =
      .next { s with
        devbuf := img
        submitted := some
          { image := img, width := 64 * Config.scale, height := 32 * Config.scale, accepted := s.surface.accepts }
        resp := if s.surface.accepts then okResp 0 else failResp .presentationFailed } ∧
    ∀ X Y, X < 64 * Config.scale → Y < 32 * Config.scale →
      img[Y * (64 * Config.scale) + X]? =
        some (if Memory.read s.fb (Y / Config.scale * 64 + X / Config.scale) = 1 then Config.fgColor
          else Config.bgColor)

/-- R152: LIVE answers one bit, open and no quit (the spec's decision D19), and changes nothing. -/
def Obligations.LiveAnswersOpenAndNoQuit : Prop :=
  ∀ (s : State),
    exec .live s = .next { s with resp := okResp (if s.surface.isOpen = true ∧ s.surface.quit = false then 1 else 0) }

/-- R154: RENDER writes only `devbuf` (and makes its submission), LIVE writes nothing; neither writes any machine state. -/
def Obligations.RendererNeverChangesMachineState : Prop :=
  ∀ (s : State),
    (∃ t, exec .render s = .next t ∧ s.SameMachine t ∧ t.tone = s.tone ∧ t.sink = s.sink ∧
      t = { s with devbuf := t.devbuf, submitted := t.submitted, resp := t.resp }) ∧
    (∃ t, exec .live s = .next t ∧ s.SameCore t ∧ t = { s with resp := t.resp })

/-- R234 (the spec's own derivation from R154 and R177): RENDER and the tone command of GATE may be issued in either order;
the states differ at most in the last response. -/
def Obligations.RenderAndToneCommandCommute : Prop :=
  ∀ (s : State) (i : Instr), i = .beepon ∨ i = .beepoff →
    ∃ t u, execAll [.render, i] s = .next t ∧ execAll [i, .render] s = .next u ∧ u = { t with resp := u.resp }

/-! ### Family 44 -/

/-- R171: BEEPON. Where the sink is empty or the tone idle it enqueues exactly one waveform and resumes; already Sounding with
a tone in flight it changes nothing; it always leaves Sounding; and a second BEEPON with no drain between enqueues nothing. -/
def Obligations.BeeponStartsAtMostOneTone : Prop :=
  ∀ (s : State),
    (s.sink.queue = [] ∨ s.tone = .idle →
      exec .beepon s =
        .next { s with
          sink := { queue := s.sink.queue ++ [Config.tone], playing := true }
          tone := .sounding
          resp := okResp 0 }) ∧
    (s.sink.queue ≠ [] ∧ s.tone = .sounding → exec .beepon s = .next { s with resp := okResp 0 }) ∧
    (∃ t, exec .beepon s = .next t ∧ t.tone = .sounding ∧ exec .beepon t = .next t)

/-- R172: BEEPOFF pauses, clears and goes Idle from every state, and a BEEPON after it enqueues exactly one waveform.
With its encoding. -/
def Obligations.BeepoffSilencesAlways : Prop :=
  ∀ (s : State), ∃ t,
    exec .beepoff s = .next t ∧
    t = { s with sink := { queue := [], playing := false }, tone := .idle, resp := okResp 0 } ∧
    exec .beepon t =
      .next { t with sink := { queue := [Config.tone], playing := true }, tone := .sounding, resp := okResp 0 } ∧
    encode .beepoff = encodeFields 0x13 0 0

/-- R177: BEEPON and BEEPOFF write only `tone` and the Sink, and what they write depends on nothing but `tone` and the
Sink. -/
def Obligations.ToneCommandsTouchOnlyToneAndSink : Prop :=
  ∀ (i : Instr), i = .beepon ∨ i = .beepoff → ∀ (s : State),
    (∃ t, exec i s = .next t ∧ s.SameMachine t ∧ t.devbuf = s.devbuf ∧
      t = { s with tone := t.tone, sink := t.sink, resp := t.resp }) ∧
    (∀ s' t t', s'.tone = s.tone → s'.sink = s.sink → exec i s = .next t → exec i s' = .next t' →
      t'.tone = t.tone ∧ t'.sink = t.sink ∧ t'.resp = t.resp)

/-- R176 (the spec's own derivation): whatever the schedule of commands and drains, a queued waveform means Sounding and no
two are queued. -/
def Obligations.ToneGateNeverStacksTones : Prop :=
  State.reset.ToneGate ∧
  (∀ s t : State, s.ToneGate → step s = .next t → t.ToneGate) ∧
  (∀ s : State, s.ToneGate → { s with sink := s.sink.drain }.ToneGate)

/-- R173: the Sink's own step lowers `q` by one exactly when it is playing and `q > 0`, and is all that happens to the queue
between two commands: some number of such steps. -/
def Obligations.SinkMovesOnlyByDrains : Prop :=
  (∀ k : Sink, (k.playing = true → 0 < k.q → k.drain.q + 1 = k.q) ∧ (k.playing = false ∨ k.q = 0 → k.drain = k) ∧
    k.drain.playing = k.playing) ∧
  (∀ s : State, ∃ n, (environment s).sink = Nat.iterate Sink.drain n s.sink)

/-! ### Whole-machine rules -/

/-- R40, R21, R23, R24, R26, R29, R33, R37: each element is written only by the commands the register map names. -/
def Obligations.EachElementHasItsWriters : Prop :=
  ∀ (i : Instr) (s t : State), exec i s = .next t →
    (t.pc ≠ s.pc → i.mnemonic = .setpc) ∧
    (t.x ≠ s.x → i.mnemonic = .wrreg) ∧
    (t.I ≠ s.I → i.mnemonic = .seti) ∧
    (t.sp ≠ s.sp → i.mnemonic = .push ∨ i.mnemonic = .pop) ∧
    (t.stack ≠ s.stack → i.mnemonic = .push) ∧
    (t.mem ≠ s.mem → i.mnemonic = .wrmem) ∧
    (t.fb ≠ s.fb → i.mnemonic = .wrpix) ∧
    (t.key ≠ s.key → i.mnemonic = .wrkey) ∧
    (t.dt ≠ s.dt → i.mnemonic = .setdt ∨ i.mnemonic = .tick) ∧
    (t.st ≠ s.st → i.mnemonic = .setst ∨ i.mnemonic = .tick) ∧
    (t.tone ≠ s.tone → i.mnemonic = .beepon ∨ i.mnemonic = .beepoff) ∧
    (i.mnemonic ≠ .render → t.devbuf = s.devbuf)

/-- R202, R72: a word that fails, at decode or in its command, answers read data 0 and changes no core state; the one
departure is PresentationFailed, which changes `devbuf` and no machine state (the spec's decision D18). -/
def Obligations.FailureChangesNothing : Prop :=
  ∀ (w : CmdWord) (s t : State) (e : Status) (d : Word),
    runWord w s = .next t → t.resp = some { status := e, rdata := d } → e ≠ .ok →
      d = 0 ∧ s.SameMachine t ∧ t.tone = s.tone ∧ t.sink = s.sink ∧
      (e ≠ .presentationFailed → t = { s with resp := failResp e })

/-- R201, R206, R72: the response carries the 4-bit code of the status table; each failure has the cause the table names and no
other; and no reserved code is ever returned. The code numbers are the spec's decision D5; of WRPIX's two causes the index check
comes first (D12). -/
def Obligations.EachFailureHasItsCause : Prop :=
  (Status.ok.code = 0 ∧ Status.stackOverflow.code = 1 ∧ Status.stackUnderflow.code = 2 ∧
    Status.programCounterOutOfBounds.code = 3 ∧ Status.addressRegisterOutOfBounds.code = 4 ∧
    Status.invalidMemoryAccess.code = 5 ∧ Status.invalidRegisterAccess.code = 6 ∧ Status.invalidPixelAccess.code = 7 ∧
    Status.invalidPixelValue.code = 8 ∧ Status.invalidKeyAccess.code = 9 ∧ Status.presentationFailed.code = 10 ∧
    Status.illegalCommand.code = 11) ∧
  (∀ r : Response, r.pair.1 = r.status.code ∧ r.pair.2 = r.rdata) ∧
  ∀ (w : CmdWord) (s t : State) (r : Response), runWord w s = .next t → t.resp = some r →
    r.pair.1.toNat < 12 ∧
    (r.status = .illegalCommand ↔ ∃ e, decode w = .error e) ∧
    (r.status = .stackOverflow ↔ (∃ v, decode w = .ok (.push v)) ∧ s.sp.toNat = 16) ∧
    (r.status = .stackUnderflow ↔ decode w = .ok .pop ∧ s.sp.toNat = 0) ∧
    (r.status = .programCounterOutOfBounds ↔ ∃ v, decode w = .ok (.setpc v) ∧ 4094 < v.toNat) ∧
    (r.status = .addressRegisterOutOfBounds ↔ ∃ v, decode w = .ok (.seti v) ∧ 4096 ≤ v.toNat) ∧
    (r.status = .invalidMemoryAccess ↔
      ∃ a, (decode w = .ok (.rdmem a) ∨ ∃ v, decode w = .ok (.wrmem a v)) ∧ 4096 ≤ a.toNat) ∧
    (r.status = .invalidRegisterAccess ↔
      ∃ a, (decode w = .ok (.rdreg a) ∨ ∃ v, decode w = .ok (.wrreg a v)) ∧ 16 ≤ a.toNat) ∧
    (r.status = .invalidPixelAccess ↔
      ∃ a, (decode w = .ok (.rdpix a) ∨ ∃ v, decode w = .ok (.wrpix a v)) ∧ 2048 ≤ a.toNat) ∧
    (r.status = .invalidPixelValue ↔
      ∃ a v, decode w = .ok (.wrpix a v) ∧ a.toNat < 2048 ∧ v ≠ 0 ∧ v ≠ 1) ∧
    (r.status = .invalidKeyAccess ↔
      ∃ a, (decode w = .ok (.rdkey a) ∨ ∃ b, decode w = .ok (.wrkey a b)) ∧ 16 ≤ a.toNat) ∧
    (r.status = .presentationFailed ↔ decode w = .ok .render ∧ s.surface.accepts = false)

/-- R203: the commands that never fail answer OK in every state. -/
def Obligations.NeverFailingCommandsAnswerOk : Prop :=
  ∀ (i : Instr),
    i.mnemonic ∈ [.setdt, .setst, .tick, .live, .beepon, .beepoff, .getpc, .geti, .getsp, .getdt, .getst] →
      ∀ s : State, ∃ t d, exec i s = .next t ∧ t.resp = okResp d

/-- R55: a read command changes nothing but the response and answers the same whatever was answered before, so repeating it
answers the same data; POP moves `sp`; LIVE changes no core state, but answers as the Surface does. -/
def Obligations.ReadCommandsHaveNoSideEffect : Prop :=
  (∀ (i : Instr), i.mnemonic ∈ [.rdmem, .rdreg, .rdpix, .rdkey, .getpc, .geti, .getsp, .getdt, .getst] →
    ∀ s : State, ∃ r : Response, ∀ q, exec i { s with resp := q } = .next { s with resp := some r }) ∧
  (∀ s t : State, exec .pop s = .next t → s.sp ≠ 0 → t.sp ≠ s.sp) ∧
  (∀ s : State, ∃ d, exec .live s = .next { s with resp := okResp d }) ∧
  (∀ s : State, ∃ (o p : Surface) (d e : Word), d ≠ e ∧
    exec .live { s with surface := o } = .next { s with surface := o, resp := okResp d } ∧
    exec .live { s with surface := p } = .next { s with surface := p, resp := okResp e })

/-- R37: `tone` is hidden: two states that differ in it alone answer every command alike, and go on to states that differ in
nothing but `tone` and the Sink. -/
def Obligations.ToneIsHidden : Prop :=
  ∀ (i : Instr) (s t : State) (tn : Tone), exec i s = .next t →
    ∃ u, exec i { s with tone := tn } = .next u ∧ u = { t with tone := u.tone, sink := u.sink }

/-- R41, R176 (the spec's own derivation), with the canonical form of the two cell stores: every step keeps the
invariants. -/
def Obligations.EveryStepKeepsInvariant : Prop :=
  ∀ s t : State, s.Inv → step s = .next t → t.Inv

/-- R12, R200: from a state that meets the invariant no step stops: every command is answered with success or one typed
failure. -/
def Obligations.NoStepStopsFromInvariant : Prop :=
  ∀ s : State, s.Inv → ∃ t, step s = .next t ∧
    ∀ w rest, s.port = w :: rest → t.port = rest ∧ ∃ r, t.resp = some r

/-- R211, R36, R37, R173: whatever the Engine is, its turn changes neither `tone` nor `devbuf`, submits nothing, and leaves the
Sink to its own drains. That the turn ends at a command the Engine may not issue is the model's choice, log entry 11; that the
last submission is kept in a field is log entry 5. -/
def Obligations.EngineTurnLeavesOutputsAlone : Prop :=
  ∀ (engine : List Response → Option Instr) (n : Nat) (seen : List Response) (s t : State),
    engineTurn engine n seen s = .next t →
      t.tone = s.tone ∧ t.devbuf = s.devbuf ∧ t.submitted = s.submitted ∧ t.sink.playing = s.sink.playing ∧
      t.sink.q ≤ s.sink.q

/-- R80, R175: the Host macro GATE always ends and leaves the machine state alone. Where the sound timer is nonzero it
leaves the tone Sounding, and the Sink playing if no tone was in flight; where the timer is 0, Idle, empty and paused. -/
def Obligations.GateFollowsSoundTimer : Prop :=
  ∀ s : State, ∃ t, gate s = .next t ∧ s.SameMachine t ∧ t.devbuf = s.devbuf ∧
    (s.st ≠ 0 → t.tone = .sounding ∧ (s.sink.q = 0 ∨ s.tone = .idle → t.sink.playing = true)) ∧
    (s.st = 0 → t.tone = .idle ∧ t.sink.q = 0 ∧ t.sink.playing = false)

/-- R232: boot writes the image from 0x200 on, one WRMEM a byte, and no other cell. That nothing is preloaded is the spec's
decision D29. Of an image that does not fit, the part that fits is written and nothing wraps: the model's choice, log entry
16. -/
def Obligations.BootLoadsTheImage : Prop :=
  ∀ (image : List Byte) (s : State),
    ∃ t, boot image s = .next t ∧
      (∀ k (h : k < image.length), 0x200 + k < 4096 → Memory.read t.mem (0x200 + k) = image[k]) ∧
      (∀ a, a < 0x200 ∨ 0x200 + image.length ≤ a ∨ 4096 ≤ a → Memory.read t.mem a = Memory.read s.mem a) ∧
      s.SameMachine { t with mem := s.mem } ∧ t.tone = s.tone ∧ t.devbuf = s.devbuf

/-- R234 with R41, R175: from a state that meets the invariant, one iteration of the driving loop always ends, keeps the
invariant whatever the Engine does, and leaves the tone following the sound timer. Once LIVE has answered 0, in this iteration or
one before, the iteration renders nothing: it leaves `devbuf` as it was and submits nothing. The loop's form is the model's
choice, log entry 11, and so is that it goes on after a failed command, log entry 17. -/
def Obligations.LoopIterationKeepsInvariant : Prop :=
  ∀ (engine : List Response → Option Instr) (keys : List (Word × Bool)) (rendering : Bool) (s : State), s.Inv →
    ∃ t r, loopIteration engine keys rendering s = .next (t, r) ∧ t.Inv ∧
      (t.st ≠ 0 → t.tone = .sounding) ∧ (t.st = 0 → t.tone = .idle) ∧
      (rendering = false → r = false) ∧
      (r = false → t.devbuf = s.devbuf ∧ t.submitted = s.submitted)

/-! ### The command port and the encoding -/

/-- R70, R72, R76: a step takes the first command word on the port; a word that decodes runs as its instruction, any other
answers (IllegalCommand, 0) and changes nothing; then the environment moves. With no command the core waits and only the
environment moves (the model's choice, log entries 1 and 2). -/
def Obligations.StepRunsTheDecodedCommand : Prop :=
  ∀ (s : State),
    (∀ w rest i, s.port = w :: rest → decode w = .ok i → step s = afterCommand (exec i { s with port := rest })) ∧
    (∀ w rest e, s.port = w :: rest → decode w = .error e →
      step s = .next (environment { s with port := rest, resp := failResp .illegalCommand })) ∧
    (s.port = [] → step s = .next (environment s)) ∧
    s.SameCore (environment s)

/-- R76, R77: the decoder's order. A reserved opcode is refused first, then a word with `rsv` or a must-be-zero bit set, and
every other word selects the one row that owns it. -/
def Obligations.DecodeFollowsTheOrder : Prop :=
  ∀ w : CmdWord,
    (decode w = .error .reservedOpcode ↔ opField w = 0x00 ∨ 0x19 ≤ (opField w).toNat) ∧
    (decode w = .error .mustBeZeroSet ↔
      ∃ m : Mnemonic, opField w = m.opcode ∧
        (rsvField w ≠ 0 ∨ w &&& m.format.mustBeZero ≠ 0)) ∧
    (∀ i, decode w = .ok i → i.mnemonic.owns w = true) ∧
    (∀ m : Mnemonic, m.owns w = true → ∃ i, decode w = .ok i ∧ i.mnemonic = m)

/-- R74, R75, R76: no word belongs to two rows. -/
def Obligations.NoWordBelongsToTwoRows : Prop :=
  ∀ (w : CmdWord) (m n : Mnemonic), m.owns w = true → n.owns w = true → m = n

/-- R71, R73 to R75: decoding the word of an instruction gives it back, with every operand at every value. -/
def Obligations.DecodeOfEncodeIsTheInstruction : Prop :=
  ∀ i : Instr, decode (encode i) = .ok i

/-- R71, R74, R75: each command has one word: a word that decodes is the word of its instruction. -/
def Obligations.EncodeOfDecodeIsTheWord : Prop :=
  ∀ (w : CmdWord) (i : Instr), decode w = .ok i → encode i = w

/-- R79: an assembler line assembles exactly when its operands fit, and then to the word of the instruction with that
mnemonic and those operands, which the decoder reads back from that word. The assembler is the spec's decision D33. -/
def Obligations.AssembledLineDecodesToItself : Prop :=
  ∀ l : Line,
    (l.wellFormed = false → l.assemble = none) ∧
    (l.wellFormed = true → ∃ (w : CmdWord) (i : Instr), l.assemble = some w ∧ w = encode i ∧ decode w = .ok i ∧ i.line = l)

/-- R71, R75, R77 and 95_test_vectors.md: words written out from the encoding decode to the command they stand for, one of each
row of the opcode map, and a word with an `rsv` bit set and one with a reserved opcode are refused. -/
def Obligations.SampleWordsDecodeAsWritten : Prop :=
  decode 0x0800000202 = .ok (.push 0x0202) ∧
  decode 0x1000000000 = .ok .pop ∧
  decode 0x1800000FFF = .ok (.setpc 0x0FFF) ∧
  decode 0x2000001000 = .ok (.seti 0x1000) ∧
  decode 0x2802000000 = .ok (.rdmem 0x200) ∧
  decode 0x30020000A2 = .ok (.wrmem 0x200 0xA2) ∧
  decode 0x38000F0000 = .ok (.rdreg 15) ∧
  decode 0x40000F00FF = .ok (.wrreg 15 0xFF) ∧
  decode 0x4807FF0000 = .ok (.rdpix 2047) ∧
  decode 0x50014A0001 = .ok (.wrpix 330 1) ∧
  decode 0x5800050000 = .ok (.rdkey 5) ∧
  decode 0x6000050001 = .ok (.wrkey 5 true) ∧
  decode 0x68000000FA = .ok (.setdt 250) ∧
  decode 0x7000000096 = .ok (.setst 150) ∧
  decode 0x7800000000 = .ok .tick ∧
  decode 0x8000000000 = .ok .render ∧
  decode 0x8800000000 = .ok .live ∧
  decode 0x9000000000 = .ok .beepon ∧
  decode 0x9800000000 = .ok .beepoff ∧
  decode 0xA000000000 = .ok .getpc ∧
  decode 0xA800000000 = .ok .geti ∧
  decode 0xB000000000 = .ok .getsp ∧
  decode 0xB800000000 = .ok .getdt ∧
  decode 0xC000000000 = .ok .getst ∧
  decode 0x0A00000202 = .error .mustBeZeroSet ∧
  decode 0xC800000000 = .error .reservedOpcode

/-! ### The Host's presentation -/

/-- R152, R234: while it renders, the Host presents one image where LIVE answers 1, and where LIVE answers 0 it presents nothing
and stops rendering; once it has stopped it issues nothing. That LIVE is asked before each RENDER is the model's choice, log entry
11; that a rejected image does not end the rendering is log entry 17. -/
def Obligations.HostRendersWhileLiveAnswersOne : Prop :=
  ∀ s : State,
    (s.surface.isOpen = true ∧ s.surface.quit = false →
      ∃ (u : State) (b : Submission), present true s = .next (u, true) ∧ s.SameMachine u ∧ u.tone = s.tone ∧
        u.submitted = some b ∧ b.image = u.devbuf) ∧
    (s.surface.isOpen = false ∨ s.surface.quit = true →
      ∃ u : State, present true s = .next (u, false) ∧ s.SameCore u ∧ u.submitted = s.submitted) ∧
    present false s = .next (s, false)
end

