-- ==== Sys2Proof/Laws/Encoding.lean ====
section
/-! SUPPORT. The fields of an encoded word (R71), the must-be-zero bits (R74), and what the decoder's check says (R76). -/

namespace Sys2Proof

@[simp] theorem opField_encodeFields (op : BitVec 5) (i d : Word) : opField (encodeFields op i d) = op := by
  ext k hk
  simp only [opField, encodeFields, BitVec.getElem_extractLsb', BitVec.getLsbD_append]
  grind

@[simp] theorem rsvField_encodeFields (op : BitVec 5) (i d : Word) : rsvField (encodeFields op i d) = 0 := by
  ext k hk
  simp only [rsvField, encodeFields, BitVec.getElem_extractLsb', BitVec.getLsbD_append]
  grind

@[simp] theorem idxField_encodeFields (op : BitVec 5) (i d : Word) : idxField (encodeFields op i d) = i := by
  ext k hk
  simp only [idxField, encodeFields, BitVec.getElem_extractLsb', BitVec.getLsbD_append]
  grind

@[simp] theorem dataField_encodeFields (op : BitVec 5) (i d : Word) : dataField (encodeFields op i d) = d := by
  ext k hk
  simp only [dataField, encodeFields, BitVec.getElem_extractLsb', BitVec.getLsbD_append]
  grind

/-- `v8` is the low byte of `data` (R73). -/
theorem v8Field_eq (w : CmdWord) : v8Field w = (dataField w).setWidth 8 := by
  ext k hk
  simp [v8Field, dataField]
  grind

/-- `b` is bit 0 of `data` (R73). -/
theorem bField_eq (w : CmdWord) : bField w = (dataField w).getLsbD 0 := by
  simp [bField, dataField]

/-- A word is its four fields (R71). -/
theorem word_eq_fields (w : CmdWord) : w = opField w ++ rsvField w ++ idxField w ++ dataField w := by
  ext k hk
  simp only [opField, rsvField, idxField, dataField]
  grind

theorem append_inj {n m : Nat} {a b : BitVec n} {c d : BitVec m} : a ++ c = b ++ d ↔ a = b ∧ c = d := by
  constructor
  · intro h
    constructor
    · ext k hk
      have := congrArg (fun v => v.getLsbD (k + m)) h
      simp only [BitVec.getLsbD_append] at this
      simpa [hk] using this
    · ext k hk
      have := congrArg (fun v => v.getLsbD k) h
      simpa [BitVec.getLsbD_append, hk] using this
  · rintro ⟨rfl, rfl⟩
    rfl

/-- Two words of four fields are equal when their fields are. -/
theorem fields_inj {o o' : BitVec 5} {r r' : BitVec 3} {i i' d d' : Word} :
    o ++ r ++ i ++ d = o' ++ r' ++ i' ++ d' ↔ o = o' ∧ r = r' ∧ i = i' ∧ d = d' := by
  rw [append_inj, append_inj, append_inj, and_assoc, and_assoc]

/-- A mask acts field by field. -/
theorem and_fields (w : CmdWord) (o : BitVec 5) (r : BitVec 3) (i d : Word) :
    w &&& (o ++ r ++ i ++ d) = (opField w &&& o) ++ (rsvField w &&& r) ++ (idxField w &&& i) ++ (dataField w &&& d) := by
  conv => lhs; rw [word_eq_fields w]
  rw [BitVec.and_append, BitVec.and_append, BitVec.and_append]

/-- The bits of the `idx` field a format's mask holds (R74). -/
def Format.maskIdx : Format → Word
  | .n => 0xFFFF
  | .d16 => 0xFFFF
  | .d8 => 0xFFFF
  | .x => 0
  | .xd8 => 0
  | .xb => 0

/-- The bits of the `data` field a format's mask holds (R74). -/
def Format.maskData : Format → Word
  | .n => 0xFFFF
  | .d16 => 0
  | .d8 => 0xFF00
  | .x => 0xFFFF
  | .xd8 => 0xFF00
  | .xb => 0xFFFE

theorem mask_eq_fields (f : Format) : f.mask = 0x1F#5 ++ 0x7#3 ++ f.maskIdx ++ f.maskData := by
  cases f <;> decide

theorem mustBeZero_eq_fields (f : Format) : f.mustBeZero = 0#5 ++ 0x7#3 ++ f.maskIdx ++ f.maskData := by
  cases f <;> decide

theorem matchWord_eq_fields (m : Mnemonic) : m.matchWord = m.opcode ++ 0#3 ++ 0#16 ++ 0#16 := by
  cases m <;> decide

/-- The must-be-zero test of R76, field by field. -/
theorem mustBeZero_clear_iff (f : Format) (w : CmdWord) :
    w &&& f.mustBeZero = 0#40 ↔
      rsvField w = 0 ∧ idxField w &&& f.maskIdx = 0 ∧ dataField w &&& f.maskData = 0 := by
  rw [mustBeZero_eq_fields, and_fields, show 0#40 = 0#5 ++ 0#3 ++ 0#16 ++ 0#16 from by decide, fields_inj]
  have h7 : ∀ r : BitVec 3, r &&& 0x7#3 = r := by decide
  rw [h7]
  simp

/-- A word belongs to a row when its opcode is the row's and its must-be-zero bits are clear (R74, R76). -/
theorem owns_iff (m : Mnemonic) (w : CmdWord) :
    m.owns w = true ↔ opField w = m.opcode ∧ w &&& m.format.mustBeZero = 0#40 := by
  rw [Mnemonic.owns, beq_iff_eq, mask_eq_fields, and_fields, matchWord_eq_fields, fields_inj, mustBeZero_clear_iff]
  have h7 : ∀ r : BitVec 3, r &&& 0x7#3 = r := by decide
  have h31 : ∀ o : BitVec 5, o &&& 0x1F#5 = o := by decide
  rw [h7, h31]
  exact Iff.rfl

/-- The opcode map is one to one (R75). -/
theorem ofOpcode_eq_some {op : BitVec 5} {m : Mnemonic} : Mnemonic.ofOpcode op = some m ↔ op = m.opcode := by
  constructor
  · have h : ∀ o : BitVec 5, ∀ k ∈ Mnemonic.ofOpcode o, o = k.opcode := by decide
    exact h op m
  · rintro rfl
    cases m <;> rfl

/-- The reserved opcodes (R77). -/
theorem ofOpcode_eq_none {op : BitVec 5} : Mnemonic.ofOpcode op = none ↔ op = 0x00 ∨ 0x19 ≤ op.toNat := by
  revert op
  decide

/-- What the decoder accepts (R76). -/
theorem decode_eq_ok {w : CmdWord} {i : Instr} :
    decode w = .ok i ↔ ∃ m : Mnemonic, m.owns w = true ∧ m.instr w = i := by
  simp only [decode, owns_iff, ← ofOpcode_eq_some]
  cases h : Mnemonic.ofOpcode (opField w) with
  | none => simp
  | some m =>
    simp only [Option.some.injEq]
    constructor
    · intro h
      split at h
      · next hz => exact ⟨m, ⟨rfl, hz⟩, by simpa using h⟩
      · cases h
    · rintro ⟨_, ⟨rfl, hz⟩, rfl⟩
      simp [hz]

/-- The instruction of a row stands under that row's mnemonic (R75). -/
@[simp] theorem instr_mnemonic (m : Mnemonic) (w : CmdWord) : (m.instr w).mnemonic = m := by cases m <;> rfl

/-- Every instruction is well formed: its operand types are the widths its format admits (R73, R79). -/
theorem instr_wellFormed (i : Instr) : i.wellFormed = true := by
  cases i <;>
    simp [Instr.wellFormed, Line.wellFormed, Instr.line, Instr.mnemonic, Instr.operands, Mnemonic.format,
      Format.admits] <;>
    first
      | omega
      | (refine ⟨by omega, ?_⟩; first | omega | (rename_i b; cases b <;> decide))

end Sys2Proof
end

