-- ==== Sys2Proof/Laws/Memory.lean ====
section
/-! SUPPORT. The cell store: what a write does to every cell, and that it keeps the canonical form (R51, R57). -/

namespace Sys2Proof.Machine

@[simp] theorem memory_read_nil (k : Nat) : Memory.read [] k = 0 := rfl

@[simp] theorem memory_read_cons (c : Host.Cell) (m : Memory) (k : Nat) :
    Memory.read (c :: m) k = if c.1 = k then c.2 else Memory.read m k := rfl

/-- An erased cell reads 0, and no other cell changes. -/
theorem memory_read_erase (m : Memory) (a k : Nat) :
    Memory.read (Memory.erase m a) k = if k = a then 0 else Memory.read m k := by
  induction m with
  | nil => simp [Memory.erase]
  | cons c m ih =>
    simp only [Memory.erase, List.filter_cons, bne_iff_ne] at ih ⊢
    by_cases hc : c.1 = a
    · simp only [hc, ne_eq, not_true_eq_false, if_false, ih, memory_read_cons]
      grind
    · simp only [ne_eq, hc, not_false_eq_true, if_true, memory_read_cons, ih]
      grind

/-- An inserted cell is read where the store listed none at its index, and no other cell changes. -/
theorem memory_read_insert (m : Memory) (c : Host.Cell) (k : Nat) (hm : ∀ d ∈ m, d.1 ≠ c.1) :
    Memory.read (Memory.insert m c) k = if k = c.1 then c.2 else Memory.read m k := by
  induction m with
  | nil => simp [Memory.insert, eq_comm]
  | cons d m ih =>
    have hd : d.1 ≠ c.1 := hm d (by simp)
    have := ih fun e he => hm e (List.mem_cons_of_mem d he)
    simp only [Memory.insert]
    split
    · simp [eq_comm]
    · simp only [memory_read_cons, this]
      grind

theorem memory_erase_index_ne (m : Memory) (a : Nat) : ∀ d ∈ Memory.erase m a, d.1 ≠ a := by
  simp [Memory.erase]

/-- A write sets the one cell and no other, in every store (R51, R57). -/
theorem memory_read_write (m : Memory) (a k : Nat) (v : Byte) :
    Memory.read (Memory.write m a v) k = if k = a then v else Memory.read m k := by
  unfold Memory.write
  split
  · next h => rw [memory_read_erase, h]
  · rw [memory_read_insert _ _ _ (memory_erase_index_ne m a), memory_read_erase]
    grind

/-! ### The canonical form -/

theorem memory_sorted_iff (m : Memory) : Memory.sorted m = true ↔ m.Pairwise (fun c d => c.1 < d.1) := by
  induction m with
  | nil => simp [Memory.sorted]
  | cons c m ih =>
    cases m with
    | nil => simp [Memory.sorted]
    | cons d m =>
      simp only [Memory.sorted, Bool.and_eq_true, decide_eq_true_eq, ih, List.pairwise_cons, List.mem_cons,
        forall_eq_or_imp]
      constructor
      · rintro ⟨hcd, hd, hm⟩
        exact ⟨⟨hcd, fun e he => hcd.trans (hd e he)⟩, hd, hm⟩
      · rintro ⟨⟨hcd, -⟩, hd, hm⟩
        exact ⟨hcd, hd, hm⟩

theorem memory_mem_insert (m : Memory) (c d : Host.Cell) : d ∈ Memory.insert m c ↔ d = c ∨ d ∈ m := by
  induction m with
  | nil => simp [Memory.insert]
  | cons e m ih =>
    simp only [Memory.insert]
    split
    · simp
    · simp only [List.mem_cons, ih]
      tauto

theorem memory_pairwise_insert (m : Memory) (c : Host.Cell) (hm : m.Pairwise (fun d e => d.1 < e.1))
    (hc : ∀ d ∈ m, d.1 ≠ c.1) : (Memory.insert m c).Pairwise (fun d e => d.1 < e.1) := by
  induction m with
  | nil => simp [Memory.insert]
  | cons d m ih =>
    rw [List.pairwise_cons] at hm
    simp only [Memory.insert]
    split
    · next h =>
      refine List.pairwise_cons.2 ⟨fun e he => ?_, List.pairwise_cons.2 hm⟩
      rcases List.mem_cons.1 he with rfl | he
      · exact h
      · exact h.trans (hm.1 e he)
    · next h =>
      have hd : d.1 ≠ c.1 := hc d (by simp)
      refine List.pairwise_cons.2 ⟨fun e he => ?_, ih hm.2 fun e he => hc e (List.mem_cons_of_mem d he)⟩
      rcases (memory_mem_insert m c e).1 he with rfl | he
      · omega
      · exact hm.1 e he

/-- What the canonical form says, cell by cell. -/
theorem memory_wf_iff (size : Nat) (m : Memory) :
    Memory.wf size m = true ↔ m.Pairwise (fun c d => c.1 < d.1) ∧ ∀ c ∈ m, c.1 < size ∧ c.2 ≠ 0 := by
  simp [Memory.wf, memory_sorted_iff]

/-- The cells a write leaves listed. -/
theorem memory_mem_write {m : Memory} {a : Nat} {v : Byte} {c : Host.Cell} (h : c ∈ Memory.write m a v) :
    (c = (a, v) ∧ v ≠ 0) ∨ c ∈ m := by
  unfold Memory.write at h
  split at h
  · exact .inr (List.mem_filter.1 h).1
  · next hv =>
    rcases (memory_mem_insert _ _ _).1 h with h | h
    · exact .inl ⟨h, hv⟩
    · exact .inr (List.mem_filter.1 h).1

/-- A write inside the store keeps the canonical form. -/
theorem memory_wf_write {size : Nat} {m : Memory} (hm : Memory.wf size m = true) {a : Nat} (ha : a < size) (v : Byte) :
    Memory.wf size (Memory.write m a v) = true := by
  rw [memory_wf_iff] at hm ⊢
  refine ⟨?_, fun c hc => ?_⟩
  · have he : (Memory.erase m a).Pairwise (fun c d => c.1 < d.1) := hm.1.filter _
    unfold Memory.write
    split
    · exact he
    · exact memory_pairwise_insert _ _ he (memory_erase_index_ne m a)
  · rcases memory_mem_write hc with ⟨rfl, hv⟩ | hc
    · exact ⟨ha, hv⟩
    · exact hm.2 c hc

/-- A write of 0 or 1 keeps the framebuffer's form (R32). -/
theorem pixelsWf_write {fb : Memory} (h : pixelsWf fb = true) {p : Nat} (hp : p < numPixels) {v : Byte}
    (hv : pixelValueOk v = true) : pixelsWf (Memory.write fb p v) = true := by
  simp only [pixelsWf, Bool.and_eq_true, List.all_eq_true, beq_iff_eq] at h ⊢
  refine ⟨memory_wf_write h.1 hp v, fun c hc => ?_⟩
  rcases memory_mem_write hc with ⟨rfl, hv0⟩ | hc
  · have hv : v = 0 ∨ v = 1 := by simpa [pixelValueOk] using hv
    exact hv.resolve_left hv0
  · exact h.2 c hc

/-- In a framebuffer of the right form every pixel reads 0 or 1 (R32). -/
theorem pixelsWf_read {fb : Memory} (h : pixelsWf fb = true) (p : Nat) :
    Memory.read fb p = 0 ∨ Memory.read fb p = 1 := by
  simp only [pixelsWf, Bool.and_eq_true, List.all_eq_true, beq_iff_eq] at h
  have h1 := h.2
  clear h
  induction fb with
  | nil => simp
  | cons c fb ih =>
    rw [memory_read_cons]
    split
    · exact .inr (h1 c (by simp))
    · exact ih fun d hd => h1 d (List.mem_cons_of_mem c hd)

/-- The memory after creation has the canonical form (R31). -/
theorem reset_mem_wf : Memory.wf memSize State.reset.mem = true := by decide

/-- The framebuffer after creation has its form (R33). -/
theorem reset_fb_wf : pixelsWf State.reset.fb = true := by decide

/-- WRMEM's one memory operation keeps the canonical form. -/
theorem writeMem_wf {s : State} (h : Memory.wf memSize s.mem = true) (a : Fin memSize) (v : Byte) :
    Memory.wf memSize (s.writeMem a v).mem = true := memory_wf_write h a.isLt v

/-- WRPIX's one framebuffer operation keeps its form. -/
theorem writePix_wf {s : State} (h : pixelsWf s.fb = true) (p : Fin numPixels) {v : Byte} (hv : pixelValueOk v = true) :
    pixelsWf (s.writePix p v).fb = true := pixelsWf_write h p.isLt hv

end Sys2Proof.Machine
end

