-- ==== Sys2Proof/Laws/State.lean ====
section
/-! SUPPORT. What each named update does to each field of the state, one lemma a field, so that no later proof unfolds an
update. -/

namespace Sys2Proof.Machine

/-! ### respond -/

@[simp] theorem respond_pc (e : Status) (d : Word) (s : State) :
    (respond e d s).pc = s.pc := rfl
@[simp] theorem respond_x (e : Status) (d : Word) (s : State) :
    (respond e d s).x = s.x := rfl
@[simp] theorem respond_I (e : Status) (d : Word) (s : State) :
    (respond e d s).I = s.I := rfl
@[simp] theorem respond_sp (e : Status) (d : Word) (s : State) :
    (respond e d s).sp = s.sp := rfl
@[simp] theorem respond_stack (e : Status) (d : Word) (s : State) :
    (respond e d s).stack = s.stack := rfl
@[simp] theorem respond_mem (e : Status) (d : Word) (s : State) :
    (respond e d s).mem = s.mem := rfl
@[simp] theorem respond_fb (e : Status) (d : Word) (s : State) :
    (respond e d s).fb = s.fb := rfl
@[simp] theorem respond_key (e : Status) (d : Word) (s : State) :
    (respond e d s).key = s.key := rfl
@[simp] theorem respond_dt (e : Status) (d : Word) (s : State) :
    (respond e d s).dt = s.dt := rfl
@[simp] theorem respond_st (e : Status) (d : Word) (s : State) :
    (respond e d s).st = s.st := rfl
@[simp] theorem respond_tone (e : Status) (d : Word) (s : State) :
    (respond e d s).tone = s.tone := rfl
@[simp] theorem respond_devbuf (e : Status) (d : Word) (s : State) :
    (respond e d s).devbuf = s.devbuf := rfl
@[simp] theorem respond_sink (e : Status) (d : Word) (s : State) :
    (respond e d s).sink = s.sink := rfl
@[simp] theorem respond_surface (e : Status) (d : Word) (s : State) :
    (respond e d s).surface = s.surface := rfl
@[simp] theorem respond_submitted (e : Status) (d : Word) (s : State) :
    (respond e d s).submitted = s.submitted := rfl
@[simp] theorem respond_draws (e : Status) (d : Word) (s : State) :
    (respond e d s).draws = s.draws := rfl
@[simp] theorem respond_port (e : Status) (d : Word) (s : State) :
    (respond e d s).port = s.port := rfl
@[simp] theorem respond_resp (e : Status) (d : Word) (s : State) :
    (respond e d s).resp = some { status := e, rdata := d } := rfl

/-! ### writeMem -/

@[simp] theorem writeMem_pc (s : State) (a : Fin memSize) (v : Byte) :
    (s.writeMem a v).pc = s.pc := rfl
@[simp] theorem writeMem_x (s : State) (a : Fin memSize) (v : Byte) :
    (s.writeMem a v).x = s.x := rfl
@[simp] theorem writeMem_I (s : State) (a : Fin memSize) (v : Byte) :
    (s.writeMem a v).I = s.I := rfl
@[simp] theorem writeMem_sp (s : State) (a : Fin memSize) (v : Byte) :
    (s.writeMem a v).sp = s.sp := rfl
@[simp] theorem writeMem_stack (s : State) (a : Fin memSize) (v : Byte) :
    (s.writeMem a v).stack = s.stack := rfl
@[simp] theorem writeMem_mem (s : State) (a : Fin memSize) (v : Byte) :
    (s.writeMem a v).mem = Memory.write s.mem a v := rfl
@[simp] theorem writeMem_fb (s : State) (a : Fin memSize) (v : Byte) :
    (s.writeMem a v).fb = s.fb := rfl
@[simp] theorem writeMem_key (s : State) (a : Fin memSize) (v : Byte) :
    (s.writeMem a v).key = s.key := rfl
@[simp] theorem writeMem_dt (s : State) (a : Fin memSize) (v : Byte) :
    (s.writeMem a v).dt = s.dt := rfl
@[simp] theorem writeMem_st (s : State) (a : Fin memSize) (v : Byte) :
    (s.writeMem a v).st = s.st := rfl
@[simp] theorem writeMem_tone (s : State) (a : Fin memSize) (v : Byte) :
    (s.writeMem a v).tone = s.tone := rfl
@[simp] theorem writeMem_devbuf (s : State) (a : Fin memSize) (v : Byte) :
    (s.writeMem a v).devbuf = s.devbuf := rfl
@[simp] theorem writeMem_sink (s : State) (a : Fin memSize) (v : Byte) :
    (s.writeMem a v).sink = s.sink := rfl
@[simp] theorem writeMem_surface (s : State) (a : Fin memSize) (v : Byte) :
    (s.writeMem a v).surface = s.surface := rfl
@[simp] theorem writeMem_submitted (s : State) (a : Fin memSize) (v : Byte) :
    (s.writeMem a v).submitted = s.submitted := rfl
@[simp] theorem writeMem_draws (s : State) (a : Fin memSize) (v : Byte) :
    (s.writeMem a v).draws = s.draws := rfl
@[simp] theorem writeMem_port (s : State) (a : Fin memSize) (v : Byte) :
    (s.writeMem a v).port = s.port := rfl
@[simp] theorem writeMem_resp (s : State) (a : Fin memSize) (v : Byte) :
    (s.writeMem a v).resp = s.resp := rfl

/-! ### writeReg -/

@[simp] theorem writeReg_pc (s : State) (r : Fin numRegs) (v : Byte) :
    (s.writeReg r v).pc = s.pc := rfl
@[simp] theorem writeReg_x (s : State) (r : Fin numRegs) (v : Byte) :
    (s.writeReg r v).x = s.x.set r v := rfl
@[simp] theorem writeReg_I (s : State) (r : Fin numRegs) (v : Byte) :
    (s.writeReg r v).I = s.I := rfl
@[simp] theorem writeReg_sp (s : State) (r : Fin numRegs) (v : Byte) :
    (s.writeReg r v).sp = s.sp := rfl
@[simp] theorem writeReg_stack (s : State) (r : Fin numRegs) (v : Byte) :
    (s.writeReg r v).stack = s.stack := rfl
@[simp] theorem writeReg_mem (s : State) (r : Fin numRegs) (v : Byte) :
    (s.writeReg r v).mem = s.mem := rfl
@[simp] theorem writeReg_fb (s : State) (r : Fin numRegs) (v : Byte) :
    (s.writeReg r v).fb = s.fb := rfl
@[simp] theorem writeReg_key (s : State) (r : Fin numRegs) (v : Byte) :
    (s.writeReg r v).key = s.key := rfl
@[simp] theorem writeReg_dt (s : State) (r : Fin numRegs) (v : Byte) :
    (s.writeReg r v).dt = s.dt := rfl
@[simp] theorem writeReg_st (s : State) (r : Fin numRegs) (v : Byte) :
    (s.writeReg r v).st = s.st := rfl
@[simp] theorem writeReg_tone (s : State) (r : Fin numRegs) (v : Byte) :
    (s.writeReg r v).tone = s.tone := rfl
@[simp] theorem writeReg_devbuf (s : State) (r : Fin numRegs) (v : Byte) :
    (s.writeReg r v).devbuf = s.devbuf := rfl
@[simp] theorem writeReg_sink (s : State) (r : Fin numRegs) (v : Byte) :
    (s.writeReg r v).sink = s.sink := rfl
@[simp] theorem writeReg_surface (s : State) (r : Fin numRegs) (v : Byte) :
    (s.writeReg r v).surface = s.surface := rfl
@[simp] theorem writeReg_submitted (s : State) (r : Fin numRegs) (v : Byte) :
    (s.writeReg r v).submitted = s.submitted := rfl
@[simp] theorem writeReg_draws (s : State) (r : Fin numRegs) (v : Byte) :
    (s.writeReg r v).draws = s.draws := rfl
@[simp] theorem writeReg_port (s : State) (r : Fin numRegs) (v : Byte) :
    (s.writeReg r v).port = s.port := rfl
@[simp] theorem writeReg_resp (s : State) (r : Fin numRegs) (v : Byte) :
    (s.writeReg r v).resp = s.resp := rfl

/-! ### writePix -/

@[simp] theorem writePix_pc (s : State) (p : Fin numPixels) (v : Byte) :
    (s.writePix p v).pc = s.pc := rfl
@[simp] theorem writePix_x (s : State) (p : Fin numPixels) (v : Byte) :
    (s.writePix p v).x = s.x := rfl
@[simp] theorem writePix_I (s : State) (p : Fin numPixels) (v : Byte) :
    (s.writePix p v).I = s.I := rfl
@[simp] theorem writePix_sp (s : State) (p : Fin numPixels) (v : Byte) :
    (s.writePix p v).sp = s.sp := rfl
@[simp] theorem writePix_stack (s : State) (p : Fin numPixels) (v : Byte) :
    (s.writePix p v).stack = s.stack := rfl
@[simp] theorem writePix_mem (s : State) (p : Fin numPixels) (v : Byte) :
    (s.writePix p v).mem = s.mem := rfl
@[simp] theorem writePix_fb (s : State) (p : Fin numPixels) (v : Byte) :
    (s.writePix p v).fb = Memory.write s.fb p v := rfl
@[simp] theorem writePix_key (s : State) (p : Fin numPixels) (v : Byte) :
    (s.writePix p v).key = s.key := rfl
@[simp] theorem writePix_dt (s : State) (p : Fin numPixels) (v : Byte) :
    (s.writePix p v).dt = s.dt := rfl
@[simp] theorem writePix_st (s : State) (p : Fin numPixels) (v : Byte) :
    (s.writePix p v).st = s.st := rfl
@[simp] theorem writePix_tone (s : State) (p : Fin numPixels) (v : Byte) :
    (s.writePix p v).tone = s.tone := rfl
@[simp] theorem writePix_devbuf (s : State) (p : Fin numPixels) (v : Byte) :
    (s.writePix p v).devbuf = s.devbuf := rfl
@[simp] theorem writePix_sink (s : State) (p : Fin numPixels) (v : Byte) :
    (s.writePix p v).sink = s.sink := rfl
@[simp] theorem writePix_surface (s : State) (p : Fin numPixels) (v : Byte) :
    (s.writePix p v).surface = s.surface := rfl
@[simp] theorem writePix_submitted (s : State) (p : Fin numPixels) (v : Byte) :
    (s.writePix p v).submitted = s.submitted := rfl
@[simp] theorem writePix_draws (s : State) (p : Fin numPixels) (v : Byte) :
    (s.writePix p v).draws = s.draws := rfl
@[simp] theorem writePix_port (s : State) (p : Fin numPixels) (v : Byte) :
    (s.writePix p v).port = s.port := rfl
@[simp] theorem writePix_resp (s : State) (p : Fin numPixels) (v : Byte) :
    (s.writePix p v).resp = s.resp := rfl

/-! ### writeKey -/

@[simp] theorem writeKey_pc (s : State) (k : Fin numKeys) (b : Bool) :
    (s.writeKey k b).pc = s.pc := rfl
@[simp] theorem writeKey_x (s : State) (k : Fin numKeys) (b : Bool) :
    (s.writeKey k b).x = s.x := rfl
@[simp] theorem writeKey_I (s : State) (k : Fin numKeys) (b : Bool) :
    (s.writeKey k b).I = s.I := rfl
@[simp] theorem writeKey_sp (s : State) (k : Fin numKeys) (b : Bool) :
    (s.writeKey k b).sp = s.sp := rfl
@[simp] theorem writeKey_stack (s : State) (k : Fin numKeys) (b : Bool) :
    (s.writeKey k b).stack = s.stack := rfl
@[simp] theorem writeKey_mem (s : State) (k : Fin numKeys) (b : Bool) :
    (s.writeKey k b).mem = s.mem := rfl
@[simp] theorem writeKey_fb (s : State) (k : Fin numKeys) (b : Bool) :
    (s.writeKey k b).fb = s.fb := rfl
@[simp] theorem writeKey_key (s : State) (k : Fin numKeys) (b : Bool) :
    (s.writeKey k b).key = s.key.set k b := rfl
@[simp] theorem writeKey_dt (s : State) (k : Fin numKeys) (b : Bool) :
    (s.writeKey k b).dt = s.dt := rfl
@[simp] theorem writeKey_st (s : State) (k : Fin numKeys) (b : Bool) :
    (s.writeKey k b).st = s.st := rfl
@[simp] theorem writeKey_tone (s : State) (k : Fin numKeys) (b : Bool) :
    (s.writeKey k b).tone = s.tone := rfl
@[simp] theorem writeKey_devbuf (s : State) (k : Fin numKeys) (b : Bool) :
    (s.writeKey k b).devbuf = s.devbuf := rfl
@[simp] theorem writeKey_sink (s : State) (k : Fin numKeys) (b : Bool) :
    (s.writeKey k b).sink = s.sink := rfl
@[simp] theorem writeKey_surface (s : State) (k : Fin numKeys) (b : Bool) :
    (s.writeKey k b).surface = s.surface := rfl
@[simp] theorem writeKey_submitted (s : State) (k : Fin numKeys) (b : Bool) :
    (s.writeKey k b).submitted = s.submitted := rfl
@[simp] theorem writeKey_draws (s : State) (k : Fin numKeys) (b : Bool) :
    (s.writeKey k b).draws = s.draws := rfl
@[simp] theorem writeKey_port (s : State) (k : Fin numKeys) (b : Bool) :
    (s.writeKey k b).port = s.port := rfl
@[simp] theorem writeKey_resp (s : State) (k : Fin numKeys) (b : Bool) :
    (s.writeKey k b).resp = s.resp := rfl

/-! ### writeSlot -/

@[simp] theorem writeSlot_pc (s : State) (k : Fin stackDepth) (v : Word) :
    (s.writeSlot k v).pc = s.pc := rfl
@[simp] theorem writeSlot_x (s : State) (k : Fin stackDepth) (v : Word) :
    (s.writeSlot k v).x = s.x := rfl
@[simp] theorem writeSlot_I (s : State) (k : Fin stackDepth) (v : Word) :
    (s.writeSlot k v).I = s.I := rfl
@[simp] theorem writeSlot_sp (s : State) (k : Fin stackDepth) (v : Word) :
    (s.writeSlot k v).sp = s.sp := rfl
@[simp] theorem writeSlot_stack (s : State) (k : Fin stackDepth) (v : Word) :
    (s.writeSlot k v).stack = s.stack.set k v := rfl
@[simp] theorem writeSlot_mem (s : State) (k : Fin stackDepth) (v : Word) :
    (s.writeSlot k v).mem = s.mem := rfl
@[simp] theorem writeSlot_fb (s : State) (k : Fin stackDepth) (v : Word) :
    (s.writeSlot k v).fb = s.fb := rfl
@[simp] theorem writeSlot_key (s : State) (k : Fin stackDepth) (v : Word) :
    (s.writeSlot k v).key = s.key := rfl
@[simp] theorem writeSlot_dt (s : State) (k : Fin stackDepth) (v : Word) :
    (s.writeSlot k v).dt = s.dt := rfl
@[simp] theorem writeSlot_st (s : State) (k : Fin stackDepth) (v : Word) :
    (s.writeSlot k v).st = s.st := rfl
@[simp] theorem writeSlot_tone (s : State) (k : Fin stackDepth) (v : Word) :
    (s.writeSlot k v).tone = s.tone := rfl
@[simp] theorem writeSlot_devbuf (s : State) (k : Fin stackDepth) (v : Word) :
    (s.writeSlot k v).devbuf = s.devbuf := rfl
@[simp] theorem writeSlot_sink (s : State) (k : Fin stackDepth) (v : Word) :
    (s.writeSlot k v).sink = s.sink := rfl
@[simp] theorem writeSlot_surface (s : State) (k : Fin stackDepth) (v : Word) :
    (s.writeSlot k v).surface = s.surface := rfl
@[simp] theorem writeSlot_submitted (s : State) (k : Fin stackDepth) (v : Word) :
    (s.writeSlot k v).submitted = s.submitted := rfl
@[simp] theorem writeSlot_draws (s : State) (k : Fin stackDepth) (v : Word) :
    (s.writeSlot k v).draws = s.draws := rfl
@[simp] theorem writeSlot_port (s : State) (k : Fin stackDepth) (v : Word) :
    (s.writeSlot k v).port = s.port := rfl
@[simp] theorem writeSlot_resp (s : State) (k : Fin stackDepth) (v : Word) :
    (s.writeSlot k v).resp = s.resp := rfl

/-! ### submit -/

@[simp] theorem submit_pc (s : State) :
    s.submit.pc = s.pc := rfl
@[simp] theorem submit_x (s : State) :
    s.submit.x = s.x := rfl
@[simp] theorem submit_I (s : State) :
    s.submit.I = s.I := rfl
@[simp] theorem submit_sp (s : State) :
    s.submit.sp = s.sp := rfl
@[simp] theorem submit_stack (s : State) :
    s.submit.stack = s.stack := rfl
@[simp] theorem submit_mem (s : State) :
    s.submit.mem = s.mem := rfl
@[simp] theorem submit_fb (s : State) :
    s.submit.fb = s.fb := rfl
@[simp] theorem submit_key (s : State) :
    s.submit.key = s.key := rfl
@[simp] theorem submit_dt (s : State) :
    s.submit.dt = s.dt := rfl
@[simp] theorem submit_st (s : State) :
    s.submit.st = s.st := rfl
@[simp] theorem submit_tone (s : State) :
    s.submit.tone = s.tone := rfl
@[simp] theorem submit_devbuf (s : State) :
    s.submit.devbuf = s.devbuf := rfl
@[simp] theorem submit_sink (s : State) :
    s.submit.sink = s.sink := rfl
@[simp] theorem submit_surface (s : State) :
    s.submit.surface = s.surface := rfl
@[simp] theorem submit_submitted (s : State) :
    s.submit.submitted = some { image := s.devbuf, width := devWidth, height := devHeight, accepted := s.surface.accepts } := rfl
@[simp] theorem submit_draws (s : State) :
    s.submit.draws = s.draws := rfl
@[simp] theorem submit_port (s : State) :
    s.submit.port = s.port := rfl
@[simp] theorem submit_resp (s : State) :
    s.submit.resp = s.resp := rfl

/-! ### startTone -/

@[simp] theorem startTone_pc (s : State) :
    s.startTone.pc = s.pc := rfl
@[simp] theorem startTone_x (s : State) :
    s.startTone.x = s.x := rfl
@[simp] theorem startTone_I (s : State) :
    s.startTone.I = s.I := rfl
@[simp] theorem startTone_sp (s : State) :
    s.startTone.sp = s.sp := rfl
@[simp] theorem startTone_stack (s : State) :
    s.startTone.stack = s.stack := rfl
@[simp] theorem startTone_mem (s : State) :
    s.startTone.mem = s.mem := rfl
@[simp] theorem startTone_fb (s : State) :
    s.startTone.fb = s.fb := rfl
@[simp] theorem startTone_key (s : State) :
    s.startTone.key = s.key := rfl
@[simp] theorem startTone_dt (s : State) :
    s.startTone.dt = s.dt := rfl
@[simp] theorem startTone_st (s : State) :
    s.startTone.st = s.st := rfl
@[simp] theorem startTone_tone (s : State) :
    s.startTone.tone = .sounding := rfl
@[simp] theorem startTone_devbuf (s : State) :
    s.startTone.devbuf = s.devbuf := rfl
@[simp] theorem startTone_sink (s : State) :
    s.startTone.sink = (s.sink.enqueue Config.tone).resume := rfl
@[simp] theorem startTone_surface (s : State) :
    s.startTone.surface = s.surface := rfl
@[simp] theorem startTone_submitted (s : State) :
    s.startTone.submitted = s.submitted := rfl
@[simp] theorem startTone_draws (s : State) :
    s.startTone.draws = s.draws := rfl
@[simp] theorem startTone_port (s : State) :
    s.startTone.port = s.port := rfl
@[simp] theorem startTone_resp (s : State) :
    s.startTone.resp = s.resp := rfl

/-! ### environment -/

@[simp] theorem environment_pc (s : State) :
    (environment s).pc = s.pc := rfl
@[simp] theorem environment_x (s : State) :
    (environment s).x = s.x := rfl
@[simp] theorem environment_I (s : State) :
    (environment s).I = s.I := rfl
@[simp] theorem environment_sp (s : State) :
    (environment s).sp = s.sp := rfl
@[simp] theorem environment_stack (s : State) :
    (environment s).stack = s.stack := rfl
@[simp] theorem environment_mem (s : State) :
    (environment s).mem = s.mem := rfl
@[simp] theorem environment_fb (s : State) :
    (environment s).fb = s.fb := rfl
@[simp] theorem environment_key (s : State) :
    (environment s).key = s.key := rfl
@[simp] theorem environment_dt (s : State) :
    (environment s).dt = s.dt := rfl
@[simp] theorem environment_st (s : State) :
    (environment s).st = s.st := rfl
@[simp] theorem environment_tone (s : State) :
    (environment s).tone = s.tone := rfl
@[simp] theorem environment_devbuf (s : State) :
    (environment s).devbuf = s.devbuf := rfl
@[simp] theorem environment_sink (s : State) :
    (environment s).sink = s.sink.drains (Config.sinkDrains s.draws) := rfl
@[simp] theorem environment_surface (s : State) :
    (environment s).surface = Surface.drawn (s.draws + 1) := rfl
@[simp] theorem environment_submitted (s : State) :
    (environment s).submitted = s.submitted := rfl
@[simp] theorem environment_draws (s : State) :
    (environment s).draws = s.draws + 1 := rfl
@[simp] theorem environment_port (s : State) :
    (environment s).port = s.port := rfl
@[simp] theorem environment_resp (s : State) :
    (environment s).resp = s.resp := rfl

/-! ### withFetchWord -/

@[simp] theorem withFetchWord_pc (s : State) (nbits w : Nat) :
    (s.withFetchWord nbits w).pc = s.pc := rfl
@[simp] theorem withFetchWord_x (s : State) (nbits w : Nat) :
    (s.withFetchWord nbits w).x = s.x := rfl
@[simp] theorem withFetchWord_I (s : State) (nbits w : Nat) :
    (s.withFetchWord nbits w).I = s.I := rfl
@[simp] theorem withFetchWord_sp (s : State) (nbits w : Nat) :
    (s.withFetchWord nbits w).sp = s.sp := rfl
@[simp] theorem withFetchWord_stack (s : State) (nbits w : Nat) :
    (s.withFetchWord nbits w).stack = s.stack := rfl
@[simp] theorem withFetchWord_mem (s : State) (nbits w : Nat) :
    (s.withFetchWord nbits w).mem = s.mem := rfl
@[simp] theorem withFetchWord_fb (s : State) (nbits w : Nat) :
    (s.withFetchWord nbits w).fb = s.fb := rfl
@[simp] theorem withFetchWord_key (s : State) (nbits w : Nat) :
    (s.withFetchWord nbits w).key = s.key := rfl
@[simp] theorem withFetchWord_dt (s : State) (nbits w : Nat) :
    (s.withFetchWord nbits w).dt = s.dt := rfl
@[simp] theorem withFetchWord_st (s : State) (nbits w : Nat) :
    (s.withFetchWord nbits w).st = s.st := rfl
@[simp] theorem withFetchWord_tone (s : State) (nbits w : Nat) :
    (s.withFetchWord nbits w).tone = s.tone := rfl
@[simp] theorem withFetchWord_devbuf (s : State) (nbits w : Nat) :
    (s.withFetchWord nbits w).devbuf = s.devbuf := rfl
@[simp] theorem withFetchWord_sink (s : State) (nbits w : Nat) :
    (s.withFetchWord nbits w).sink = s.sink := rfl
@[simp] theorem withFetchWord_surface (s : State) (nbits w : Nat) :
    (s.withFetchWord nbits w).surface = s.surface := rfl
@[simp] theorem withFetchWord_submitted (s : State) (nbits w : Nat) :
    (s.withFetchWord nbits w).submitted = s.submitted := rfl
@[simp] theorem withFetchWord_draws (s : State) (nbits w : Nat) :
    (s.withFetchWord nbits w).draws = s.draws := rfl
@[simp] theorem withFetchWord_port (s : State) (nbits w : Nat) :
    (s.withFetchWord nbits w).port = tableWord nbits w :: s.port := rfl
@[simp] theorem withFetchWord_resp (s : State) (nbits w : Nat) :
    (s.withFetchWord nbits w).resp = s.resp := rfl

/-! ### Reading back what an update wrote -/

@[simp] theorem readReg_writeReg (s : State) (r q : Fin numRegs) (v : Byte) :
    (s.writeReg r v).readReg q = if r = q then v else s.readReg q := by
  simp [State.readReg, Vector.getElem_set, Fin.ext_iff]

@[simp] theorem readKey_writeKey (s : State) (k q : Fin numKeys) (b : Bool) :
    (s.writeKey k b).readKey q = if k = q then b else s.readKey q := by
  simp [State.readKey, Vector.getElem_set, Fin.ext_iff]

@[simp] theorem readSlot_writeSlot (s : State) (k q : Fin stackDepth) (v : Word) :
    (s.writeSlot k v).readSlot q = if k = q then v else s.readSlot q := by
  simp [State.readSlot, Vector.getElem_set, Fin.ext_iff]

end Sys2Proof.Machine
end

