-- ==== Sys2Proof/Laws/Ops.lean ====
section
/-! SUPPORT. One lemma for each shared operation, saying everything it can do. -/

namespace Sys2Proof.Machine

/-! ### Index checks (R50, R73) -/

theorem indexOf_eq_some {n k : Nat} {i : Fin n} : indexOf n k = some i ↔ i.val = k := by
  unfold indexOf
  split
  · simp [Fin.ext_iff, eq_comm]
  · next h => simp only [reduceCtorEq, false_iff]; rintro rfl; exact h i.isLt

theorem indexOf_eq_none {n k : Nat} : indexOf n k = none ↔ n ≤ k := by
  unfold indexOf
  split <;> simp <;> omega

theorem indexOf_of_lt {n k : Nat} (h : k < n) : indexOf n k = some ⟨k, h⟩ := by simp [indexOf, h]

theorem indexOf_of_ge {n k : Nat} (h : n ≤ k) : indexOf n k = none := indexOf_eq_none.2 h

theorem indexOperand_of_lt {n : Nat} {i : Word} (h : i.toNat < n) : indexOperand n i = some ⟨i.toNat, h⟩ := indexOf_of_lt h

theorem indexOperand_of_ge {n : Nat} {i : Word} (h : n ≤ i.toNat) : indexOperand n i = none := indexOf_of_ge h

/-! ### Responses (R72, R202) -/

@[simp] theorem raise_eq_next {e : Status} {s t : State} : raise e s = .next t ↔ t = respond e 0 s := by
  simp [raise, eq_comm]

@[simp] theorem done_eq_next {s t : State} : done s = .next t ↔ t = respond .ok 0 s := by simp [done, eq_comm]

@[simp] theorem answer_eq_next {d : Word} {s t : State} : answer d s = .next t ↔ t = respond .ok d s := by
  simp [answer, eq_comm]

/-- A response is the only thing `respond` changes. -/
theorem respond_sameCore (e : Status) (d : Word) (s : State) : s.SameCore (respond e d s) :=
  ⟨⟨rfl, rfl, rfl, rfl, rfl, rfl, rfl, rfl, rfl, rfl⟩, rfl, rfl⟩

/-! ### The Sink (R173) -/

@[simp] theorem sink_isEmpty_iff (k : Sink) : k.isEmpty = true ↔ k.q = 0 := by simp [Sink.isEmpty]

@[simp] theorem sink_q_enqueue (k : Sink) (w : Waveform) : (k.enqueue w).q = k.q + 1 := by simp [Sink.q, Sink.enqueue]

@[simp] theorem sink_q_resume (k : Sink) : k.resume.q = k.q := rfl

@[simp] theorem sink_q_pause (k : Sink) : k.pause.q = k.q := rfl

@[simp] theorem sink_q_clear (k : Sink) : k.clear.q = 0 := rfl

/-- One drain lowers `q` by one while playing, and does nothing otherwise (R173). -/
theorem sink_q_drain (k : Sink) : k.drain.q = if k.playing then k.q - 1 else k.q := by
  unfold Sink.drain Sink.q
  split <;> simp

@[simp] theorem sink_drains_zero (k : Sink) : k.drains 0 = k := by
  unfold Sink.drains
  split <;> simp

/-- `n + 1` tries are one drain and then `n` more (R173). -/
theorem sink_drains_succ (n : Nat) (k : Sink) : k.drains (n + 1) = k.drain.drains n := by
  unfold Sink.drains Sink.drain
  cases k.playing <;> simp

/-- Drains only lower `q` (R176). -/
theorem sink_q_drains_le (n : Nat) (k : Sink) : (k.drains n).q ≤ k.q := by
  unfold Sink.drains Sink.q
  split <;> simp

/-! ### Between commands -/

/-- The environment changes no core state (R216). -/
theorem environment_sameCore (s : State) : s.SameCore (environment s) :=
  ⟨⟨rfl, rfl, rfl, rfl, rfl, rfl, rfl, rfl, rfl, rfl⟩, rfl, rfl⟩

/-- The environment keeps the tone gate (R176). -/
theorem environment_toneGate {s : State} (h : s.ToneGate) : (environment s).ToneGate := by
  have hq := sink_q_drains_le (Config.sinkDrains s.draws) s.sink
  exact ⟨fun h0 => h.sounding (lt_of_lt_of_le h0 hq), hq.trans h.atMostOne⟩

@[simp] theorem andThen_next {σ τ : Type} (s : σ) (k : σ → Host.Outcome τ Fault Refusal) : andThen (.next s) k = k s := rfl

theorem andThen_eq_next {σ τ : Type} {r : Host.Outcome σ Fault Refusal} {k : σ → Host.Outcome τ Fault Refusal} {t : τ} :
    andThen r k = .next t ↔ ∃ s, r = .next s ∧ k s = .next t := by
  cases r <;> simp [andThen]

@[simp] theorem afterCommand_next (s : State) : afterCommand (.next s) = .next (environment s) := rfl

theorem afterCommand_eq_next {r : Result} {t : State} :
    afterCommand r = .next t ↔ ∃ u, r = .next u ∧ t = environment u := by
  cases r <;> simp [afterCommand, eq_comm]

theorem loadCommands_cons_of_lt {a : Nat} (h : a < 65536) (b : Byte) (rest : List Byte) :
    loadCommands a (b :: rest) = .wrmem (BitVec.ofNat 16 a) b :: loadCommands (a + 1) rest := if_pos h

theorem loadCommands_of_ge {a : Nat} (h : 65536 ≤ a) (image : List Byte) : loadCommands a image = [] := by
  cases image with
  | nil => rfl
  | cons b rest => exact if_neg (by omega)

@[simp] theorem present_false (s : State) : present false s = .next (s, false) := rfl

/-- Everything a step that answers a next state can be: the wait with no command, or one command and then the
environment. -/
theorem step_eq_next {s t : State} :
    step s = .next t ↔
      (s.port = [] ∧ t = environment s) ∨
        ∃ w rest u, s.port = w :: rest ∧ runWord w { s with port := rest } = .next u ∧ t = environment u := by
  unfold step
  cases h : s.port with
  | nil => simp [eq_comm]
  | cons w rest =>
    simp only [afterCommand_eq_next, reduceCtorEq, false_and, false_or, List.cons.injEq]
    constructor
    · rintro ⟨u, hu, rfl⟩
      exact ⟨w, rest, u, ⟨rfl, rfl⟩, hu, rfl⟩
    · rintro ⟨_, _, u, ⟨rfl, rfl⟩, hu, rfl⟩
      exact ⟨u, hu, rfl⟩

theorem runWord_of_ok {w : CmdWord} {i : Instr} (h : decode w = .ok i) (s : State) : runWord w s = exec i s := by
  simp [runWord, h]

theorem runWord_of_error {w : CmdWord} {e : DecodeError} (h : decode w = .error e) (s : State) :
    runWord w s = .next (respond .illegalCommand 0 s) := by
  simp [runWord, h, raise]

/-! ### The renderer's writes (R150) -/

/-- A list of writes that names no index `k` leaves entry `k` alone. -/
theorem applyWrites_getElem_of_not_mem {α : Type} {n : Nat} (ws : List (Nat × α)) (buf : Vector α n) (k : Nat) (hk : k < n)
    (h : ∀ c ∈ ws, c.1 ≠ k) : (applyWrites buf ws)[k] = buf[k] := by
  induction ws generalizing buf with
  | nil => rfl
  | cons c ws ih =>
    rw [show applyWrites buf (c :: ws) = applyWrites (buf.setIfInBounds c.1 c.2) ws from rfl,
      ih _ fun d hd => h d (List.mem_cons_of_mem c hd), Vector.getElem_setIfInBounds, if_neg (h c (by simp))]

/-- Where every write to index `k` writes the same value `v`, and there is one, entry `k` holds `v` afterwards. -/
theorem applyWrites_getElem_of_agree {α : Type} {n : Nat} (ws : List (Nat × α)) (buf : Vector α n) (k : Nat) (hk : k < n)
    (v : α) (hv : (k, v) ∈ ws) (h : ∀ c ∈ ws, c.1 = k → c.2 = v) : (applyWrites buf ws)[k] = v := by
  induction ws generalizing buf with
  | nil => simp at hv
  | cons c ws ih =>
    rw [show applyWrites buf (c :: ws) = applyWrites (buf.setIfInBounds c.1 c.2) ws from rfl]
    by_cases hin : (k, v) ∈ ws
    · exact ih _ hin fun d hd => h d (List.mem_cons_of_mem c hd)
    · obtain rfl : (k, v) = c := by simpa [hin] using hv
      rw [applyWrites_getElem_of_not_mem]
      · simp
      · rintro ⟨d, e⟩ hd rfl
        have := h _ (List.mem_cons_of_mem _ hd) rfl
        exact hin (by simpa [← this] using hd)

/-- The writes of the renderer's loops, by what their loop variables are. -/
theorem mem_blockWrites {α : Type} {w h S : Nat} {colour : Nat → α} {c : Nat × α} :
    c ∈ blockWrites w h S colour ↔
      ∃ y < h, ∃ x < w, ∃ dy < S, ∃ dx < S,
        c = ((y * S + dy) * (w * S) + (x * S + dx), colour (y * w + x)) := by
  simp [blockWrites, eq_comm]

end Sys2Proof.Machine
end

