-- ==== Sys2Proof/Laws/Exec.lean ====
section
/-! SUPPORT. Everything a command can do to the state, once: `exec_next` says that a command that answers a next state has made
one of the updates of `Update` and then responded. -/

namespace Sys2Proof.Machine

/-- The updates of the commands, one constructor for each kind, `same` for a command that changes nothing but its response: a
read, a failure, or a BEEPON with a tone in flight. -/
inductive Update : Instr → State → State → Prop where
  | same (i : Instr) (s : State) (h : i.mnemonic ∉ [.setdt, .setst, .tick, .render, .beepoff]) : Update i s s
  | push (v : Word) (s : State) (k : Fin stackDepth) (h : k.val = s.sp.toNat) :
      Update (.push v) s { s.writeSlot k v with sp := s.sp + 1 }
  | pop (s : State) (h : s.sp ≠ 0) : Update .pop s { s with sp := s.sp - 1 }
  | setpc (v : Word) (s : State) (h : v.toNat ≤ pcLimit) : Update (.setpc v) s { s with pc := v }
  | seti (v : Word) (s : State) (h : v.toNat < memSize) : Update (.seti v) s { s with I := v }
  | wrmem (a : Word) (v : Byte) (s : State) (k : Fin memSize) (h : k.val = a.toNat) :
      Update (.wrmem a v) s (s.writeMem k v)
  | wrreg (r : Word) (v : Byte) (s : State) (k : Fin numRegs) (h : k.val = r.toNat) :
      Update (.wrreg r v) s (s.writeReg k v)
  | wrpix (p : Word) (v : Byte) (s : State) (k : Fin numPixels) (h : k.val = p.toNat) (hv : pixelValueOk v = true) :
      Update (.wrpix p v) s (s.writePix k v)
  | wrkey (n : Word) (b : Bool) (s : State) (k : Fin numKeys) (h : k.val = n.toNat) :
      Update (.wrkey n b) s (s.writeKey k b)
  | setdt (v : Byte) (s : State) : Update (.setdt v) s { s with dt := v }
  | setst (v : Byte) (s : State) : Update (.setst v) s { s with st := v }
  | tick (s : State) : Update .tick s { s with dt := countDown s.dt, st := countDown s.st }
  | render (s : State) : Update .render s { s with devbuf := s.scaled }.submit
  | startTone (s : State) (h : resync s.sink.isEmpty s.tone = .idle) : Update .beepon s s.startTone
  | beepoff (s : State) : Update .beepoff s { s with sink := s.sink.pause.clear, tone := .idle }

/-- What a command answers, inverted: its update and then its response, with read data 0 where it failed (R72). -/
theorem exec_next {i : Instr} {s t : State} (h : exec i s = .next t) :
    ∃ u e d, t = respond e d u ∧ Update i s u ∧ (e ≠ .ok → d = 0 ∧ (e ≠ .presentationFailed → u = s)) := by
  cases i with
  | push v =>
    simp only [exec, execPush] at h
    split at h
    · exact ⟨s, _, _, by simpa using h, .same _ _ (by simp [Instr.mnemonic]), by simp⟩
    · split at h
      · cases h
      · next k hk => exact ⟨_, _, _, by simpa using h, .push v s k (indexOf_eq_some.1 hk), by simp⟩
  | pop =>
    simp only [exec, execPop] at h
    split at h
    · exact ⟨s, _, _, by simpa using h, .same _ _ (by simp [Instr.mnemonic]), by simp⟩
    · next h0 =>
      split at h
      · cases h
      · exact ⟨_, _, _, by simpa using h, .pop s h0, by simp⟩
  | setpc v =>
    simp only [exec, execSetpc] at h
    split at h
    · exact ⟨s, _, _, by simpa using h, .same _ _ (by simp [Instr.mnemonic]), by simp⟩
    · exact ⟨_, _, _, by simpa using h, .setpc v s (by omega), by simp⟩
  | seti v =>
    simp only [exec, execSeti] at h
    split at h
    · exact ⟨s, _, _, by simpa using h, .same _ _ (by simp [Instr.mnemonic]), by simp⟩
    · exact ⟨_, _, _, by simpa using h, .seti v s (by omega), by simp⟩
  | rdmem a =>
    simp only [exec, execRdmem] at h
    split at h <;> exact ⟨s, _, _, by simpa using h, .same _ _ (by simp [Instr.mnemonic]), by simp⟩
  | wrmem a v =>
    simp only [exec, execWrmem] at h
    split at h
    · exact ⟨s, _, _, by simpa using h, .same _ _ (by simp [Instr.mnemonic]), by simp⟩
    · next k hk => exact ⟨_, _, _, by simpa using h, .wrmem a v s k (indexOf_eq_some.1 hk), by simp⟩
  | rdreg r =>
    simp only [exec, execRdreg] at h
    split at h <;> exact ⟨s, _, _, by simpa using h, .same _ _ (by simp [Instr.mnemonic]), by simp⟩
  | wrreg r v =>
    simp only [exec, execWrreg] at h
    split at h
    · exact ⟨s, _, _, by simpa using h, .same _ _ (by simp [Instr.mnemonic]), by simp⟩
    · next k hk => exact ⟨_, _, _, by simpa using h, .wrreg r v s k (indexOf_eq_some.1 hk), by simp⟩
  | rdpix p =>
    simp only [exec, execRdpix] at h
    split at h <;> exact ⟨s, _, _, by simpa using h, .same _ _ (by simp [Instr.mnemonic]), by simp⟩
  | wrpix p v =>
    simp only [exec, execWrpix] at h
    split at h
    · exact ⟨s, _, _, by simpa using h, .same _ _ (by simp [Instr.mnemonic]), by simp⟩
    · next k hk =>
      split at h
      · next hv => exact ⟨_, _, _, by simpa using h, .wrpix p v s k (indexOf_eq_some.1 hk) hv, by simp⟩
      · exact ⟨s, _, _, by simpa using h, .same _ _ (by simp [Instr.mnemonic]), by simp⟩
  | rdkey k =>
    simp only [exec, execRdkey] at h
    split at h <;> exact ⟨s, _, _, by simpa using h, .same _ _ (by simp [Instr.mnemonic]), by simp⟩
  | wrkey n b =>
    simp only [exec, execWrkey] at h
    split at h
    · exact ⟨s, _, _, by simpa using h, .same _ _ (by simp [Instr.mnemonic]), by simp⟩
    · next k hk => exact ⟨_, _, _, by simpa using h, .wrkey n b s k (indexOf_eq_some.1 hk), by simp⟩
  | setdt v => exact ⟨_, _, _, by simpa [exec, execSetdt] using h, .setdt v s, by simp⟩
  | setst v => exact ⟨_, _, _, by simpa [exec, execSetst] using h, .setst v s, by simp⟩
  | tick => exact ⟨_, _, _, by simpa [exec, execTick] using h, .tick s, by simp⟩
  | render =>
    refine ⟨_, _, _, by simpa [exec, execRender, eq_comm] using h, .render s, fun he => ⟨rfl, fun hp => ?_⟩⟩
    unfold renderStatus at he hp
    split at he <;> simp_all
  | live => exact ⟨s, _, _, by simpa [exec, execLive] using h, .same _ _ (by simp [Instr.mnemonic]), by simp⟩
  | beepon =>
    simp only [exec, execBeepon] at h
    split at h
    · next hr => exact ⟨_, _, _, by simpa using h, .startTone s hr, by simp⟩
    · next hr =>
      have : resync s.sink.isEmpty s.tone = s.tone := by
        unfold resync at hr ⊢
        split at hr <;> simp_all
      rw [this] at h
      exact ⟨s, _, _, by simpa using h, .same _ _ (by simp [Instr.mnemonic]), by simp⟩
  | beepoff => exact ⟨_, _, _, by simpa [exec, execBeepoff] using h, .beepoff s, by simp⟩
  | getpc => exact ⟨s, _, _, by simpa [exec, execGetpc] using h, .same _ _ (by simp [Instr.mnemonic]), by simp⟩
  | geti => exact ⟨s, _, _, by simpa [exec, execGeti] using h, .same _ _ (by simp [Instr.mnemonic]), by simp⟩
  | getsp => exact ⟨s, _, _, by simpa [exec, execGetsp] using h, .same _ _ (by simp [Instr.mnemonic]), by simp⟩
  | getdt => exact ⟨s, _, _, by simpa [exec, execGetdt] using h, .same _ _ (by simp [Instr.mnemonic]), by simp⟩
  | getst => exact ⟨s, _, _, by simpa [exec, execGetst] using h, .same _ _ (by simp [Instr.mnemonic]), by simp⟩

end Sys2Proof.Machine
end

