-- ==== Sys2Proof/Laws/PerInstr.lean ====
section
/-! SUPPORT. The per-instruction family TableRow: every instruction is well formed, and its encoded word belongs to its row of
the opcode map, `word & mask == match` (R74, R75). -/

namespace Sys2Proof.Laws.TableRow

/-- The instruction's operands fit their fields and its word belongs to the row of its mnemonic. -/
def Statement (i : Instr) : Prop := i.wellFormed = true ∧ i.mnemonic.owns (encode i) = true

theorem of_operands (i : Instr)
    (hi : i.idxOperand &&& i.mnemonic.format.maskIdx = 0)
    (hd : i.dataOperand &&& i.mnemonic.format.maskData = 0) : Statement i := by
  refine ⟨instr_wellFormed i, ?_⟩
  rw [owns_iff, mustBeZero_clear_iff]
  simp [encode, hi, hd]

theorem byte_high_clear (v : Byte) : v.setWidth 16 &&& 0xFF00#16 = 0#16 := by
  revert v
  decide

theorem key_high_clear (b : Bool) : (if b then 1 else 0 : Word) &&& 0xFFFE = 0 := by
  cases b <;> decide

theorem push (v16 : Word) : Statement (.push v16) :=
  of_operands _ (by simp [Instr.idxOperand, Instr.mnemonic, Mnemonic.format, Format.maskIdx])
    (by simp [Instr.dataOperand, Instr.mnemonic, Mnemonic.format, Format.maskData])

theorem pop : Statement (.pop) :=
  of_operands _ (by simp [Instr.idxOperand, Instr.mnemonic, Mnemonic.format, Format.maskIdx])
    (by simp [Instr.dataOperand, Instr.mnemonic, Mnemonic.format, Format.maskData])

theorem setpc (v16 : Word) : Statement (.setpc v16) :=
  of_operands _ (by simp [Instr.idxOperand, Instr.mnemonic, Mnemonic.format, Format.maskIdx])
    (by simp [Instr.dataOperand, Instr.mnemonic, Mnemonic.format, Format.maskData])

theorem seti (v16 : Word) : Statement (.seti v16) :=
  of_operands _ (by simp [Instr.idxOperand, Instr.mnemonic, Mnemonic.format, Format.maskIdx])
    (by simp [Instr.dataOperand, Instr.mnemonic, Mnemonic.format, Format.maskData])

theorem rdmem (a : Word) : Statement (.rdmem a) :=
  of_operands _ (by simp [Instr.idxOperand, Instr.mnemonic, Mnemonic.format, Format.maskIdx])
    (by simp [Instr.dataOperand, Instr.mnemonic, Mnemonic.format, Format.maskData])

theorem wrmem (a : Word) (v8 : Byte) : Statement (.wrmem a v8) :=
  of_operands _ (by simp [Instr.idxOperand, Instr.mnemonic, Mnemonic.format, Format.maskIdx])
    (byte_high_clear v8)

theorem rdreg (r : Word) : Statement (.rdreg r) :=
  of_operands _ (by simp [Instr.idxOperand, Instr.mnemonic, Mnemonic.format, Format.maskIdx])
    (by simp [Instr.dataOperand, Instr.mnemonic, Mnemonic.format, Format.maskData])

theorem wrreg (r : Word) (v8 : Byte) : Statement (.wrreg r v8) :=
  of_operands _ (by simp [Instr.idxOperand, Instr.mnemonic, Mnemonic.format, Format.maskIdx])
    (byte_high_clear v8)

theorem rdpix (p : Word) : Statement (.rdpix p) :=
  of_operands _ (by simp [Instr.idxOperand, Instr.mnemonic, Mnemonic.format, Format.maskIdx])
    (by simp [Instr.dataOperand, Instr.mnemonic, Mnemonic.format, Format.maskData])

theorem wrpix (p : Word) (v8 : Byte) : Statement (.wrpix p v8) :=
  of_operands _ (by simp [Instr.idxOperand, Instr.mnemonic, Mnemonic.format, Format.maskIdx])
    (byte_high_clear v8)

theorem rdkey (k : Word) : Statement (.rdkey k) :=
  of_operands _ (by simp [Instr.idxOperand, Instr.mnemonic, Mnemonic.format, Format.maskIdx])
    (by simp [Instr.dataOperand, Instr.mnemonic, Mnemonic.format, Format.maskData])

theorem wrkey (k : Word) (b : Bool) : Statement (.wrkey k b) :=
  of_operands _ (by simp [Instr.idxOperand, Instr.mnemonic, Mnemonic.format, Format.maskIdx])
    (key_high_clear b)

theorem setdt (v8 : Byte) : Statement (.setdt v8) :=
  of_operands _ (by simp [Instr.idxOperand, Instr.mnemonic, Mnemonic.format, Format.maskIdx])
    (byte_high_clear v8)

theorem setst (v8 : Byte) : Statement (.setst v8) :=
  of_operands _ (by simp [Instr.idxOperand, Instr.mnemonic, Mnemonic.format, Format.maskIdx])
    (byte_high_clear v8)

theorem tick : Statement (.tick) :=
  of_operands _ (by simp [Instr.idxOperand, Instr.mnemonic, Mnemonic.format, Format.maskIdx])
    (by simp [Instr.dataOperand, Instr.mnemonic, Mnemonic.format, Format.maskData])

theorem render : Statement (.render) :=
  of_operands _ (by simp [Instr.idxOperand, Instr.mnemonic, Mnemonic.format, Format.maskIdx])
    (by simp [Instr.dataOperand, Instr.mnemonic, Mnemonic.format, Format.maskData])

theorem live : Statement (.live) :=
  of_operands _ (by simp [Instr.idxOperand, Instr.mnemonic, Mnemonic.format, Format.maskIdx])
    (by simp [Instr.dataOperand, Instr.mnemonic, Mnemonic.format, Format.maskData])

theorem beepon : Statement (.beepon) :=
  of_operands _ (by simp [Instr.idxOperand, Instr.mnemonic, Mnemonic.format, Format.maskIdx])
    (by simp [Instr.dataOperand, Instr.mnemonic, Mnemonic.format, Format.maskData])

theorem beepoff : Statement (.beepoff) :=
  of_operands _ (by simp [Instr.idxOperand, Instr.mnemonic, Mnemonic.format, Format.maskIdx])
    (by simp [Instr.dataOperand, Instr.mnemonic, Mnemonic.format, Format.maskData])

theorem getpc : Statement (.getpc) :=
  of_operands _ (by simp [Instr.idxOperand, Instr.mnemonic, Mnemonic.format, Format.maskIdx])
    (by simp [Instr.dataOperand, Instr.mnemonic, Mnemonic.format, Format.maskData])

theorem geti : Statement (.geti) :=
  of_operands _ (by simp [Instr.idxOperand, Instr.mnemonic, Mnemonic.format, Format.maskIdx])
    (by simp [Instr.dataOperand, Instr.mnemonic, Mnemonic.format, Format.maskData])

theorem getsp : Statement (.getsp) :=
  of_operands _ (by simp [Instr.idxOperand, Instr.mnemonic, Mnemonic.format, Format.maskIdx])
    (by simp [Instr.dataOperand, Instr.mnemonic, Mnemonic.format, Format.maskData])

theorem getdt : Statement (.getdt) :=
  of_operands _ (by simp [Instr.idxOperand, Instr.mnemonic, Mnemonic.format, Format.maskIdx])
    (by simp [Instr.dataOperand, Instr.mnemonic, Mnemonic.format, Format.maskData])

theorem getst : Statement (.getst) :=
  of_operands _ (by simp [Instr.idxOperand, Instr.mnemonic, Mnemonic.format, Format.maskIdx])
    (by simp [Instr.dataOperand, Instr.mnemonic, Mnemonic.format, Format.maskData])

end Sys2Proof.Laws.TableRow
end

