-- ==== Sys2Proof/Machine/Assembler.lean ====
section
/-! DEFINITION. The text form of a command line (R79): a mnemonic, then its operands separated by commas, numbers decimal
unless written 0x. A line's operands are checked and its word is made by `Line.assemble` (Decode.lean). -/

namespace Sys2Proof.Machine

/-- The mnemonics as R75 writes them, in the order of the opcode map. -/
def mnemonicNames : List (List Char × Mnemonic) :=
  [("PUSH".toList, .push), ("POP".toList, .pop), ("SETPC".toList, .setpc), ("SETI".toList, .seti),
    ("RDMEM".toList, .rdmem), ("WRMEM".toList, .wrmem), ("RDREG".toList, .rdreg), ("WRREG".toList, .wrreg)] ++
  [("RDPIX".toList, .rdpix), ("WRPIX".toList, .wrpix), ("RDKEY".toList, .rdkey), ("WRKEY".toList, .wrkey),
    ("SETDT".toList, .setdt), ("SETST".toList, .setst), ("TICK".toList, .tick), ("RENDER".toList, .render)] ++
  [("LIVE".toList, .live), ("BEEPON".toList, .beepon), ("BEEPOFF".toList, .beepoff), ("GETPC".toList, .getpc),
    ("GETI".toList, .geti), ("GETSP".toList, .getsp), ("GETDT".toList, .getdt), ("GETST".toList, .getst)]

/-- The mnemonic a word of text names. -/
def mnemonicOf (text : List Char) : Option Mnemonic := (mnemonicNames.find? fun row => row.1 == text).map (·.2)

/-- The value of one digit in base 10 or 16; hexadecimal letters in either case. -/
def digitValue (base : Nat) (c : Char) : Option Nat :=
  let v :=
    if '0'.toNat ≤ c.toNat ∧ c.toNat ≤ '9'.toNat then c.toNat - '0'.toNat
    else if 'A'.toNat ≤ c.toNat ∧ c.toNat ≤ 'F'.toNat then c.toNat - 'A'.toNat + 10
    else if 'a'.toNat ≤ c.toNat ∧ c.toNat ≤ 'f'.toNat then c.toNat - 'a'.toNat + 10
    else base
  if v < base then some v else none

/-- Digits, the most significant first, on from a value already read. -/
def digitsValue (base : Nat) : Nat → List Char → Option Nat
  | acc, [] => some acc
  | acc, c :: rest =>
    match digitValue base c with
    | some d => digitsValue base (acc * base + d) rest
    | none => none

/-- A number: decimal unless it is written 0x (R79). -/
def numberValue : List Char → Option Nat
  | '0' :: 'x' :: c :: rest => digitsValue 16 0 (c :: rest)
  | c :: rest => digitsValue 10 0 (c :: rest)
  | [] => none

/-- The pieces of a text between commas. -/
def commaPieces : List Char → List (List Char)
  | [] => [[]]
  | c :: rest =>
    if c = ',' then [] :: commaPieces rest
    else
      match commaPieces rest with
      | piece :: more => (c :: piece) :: more
      | [] => [[c]]

/-- A text without the spaces at its two ends. -/
def trimSpaces (text : List Char) : List Char :=
  ((text.dropWhile (· == ' ')).reverse.dropWhile (· == ' ')).reverse

/-- The operands of a line: none for an empty rest, else one number between commas (R79). -/
def operandValues (text : List Char) : Option (List Nat) :=
  match text with
  | [] => some []
  | _ => (commaPieces text).mapM fun piece => numberValue (trimSpaces piece)

/-- Read one line of text: the mnemonic up to the first space, then the operands (R79). None is an assembly error. -/
def readLine (text : List Char) : Option Line :=
  match mnemonicOf ((trimSpaces text).takeWhile (· != ' ')), operandValues (trimSpaces ((trimSpaces text).dropWhile (· != ' '))) with
  | some m, some operands => some { mnemonic := m, operands := operands }
  | _, _ => none

/-- Assemble one line of text to its command word, none for an assembly error (R79). -/
def assembleText (text : String) : Option CmdWord := (readLine text.toList).bind Line.assemble

end Sys2Proof.Machine
end

