-- ==== Sys2Proof/Tests/Slice0.lean ====
section
/-! SUPPORT. The model's own tests: expected results from the spec's examples and its test vectors (95_test_vectors.md), and for
each statement with hypotheses a named witness that meets them. -/

namespace Sys2Proof.Tests

open Sys2Proof.Machine

/-- The next state meets a check. -/
def nextIs (r : Result) (p : State → Bool) : Bool :=
  match r with
  | .next t => p t
  | .fault _ => false
  | .refused _ => false

/-- The stack pointer at a value, the rest as after creation. -/
def atSp (n : BitVec 5) : State := { State.reset with sp := n }

/-- The Surface's next answers, the rest as after creation. -/
def withSurface (o q a : Bool) : State := { State.reset with surface := { isOpen := o, quit := q, accepts := a } }

/-- The tone gate at a state of 95_test_vectors.md part 2.2. -/
def toneAt (t : Tone) (q : List Waveform) (p : Bool) : State :=
  { State.reset with tone := t, sink := { queue := q, playing := p } }

/-! ### WellFormed smoke: for each check a term it refuses (R79) -/

theorem test_n_refuses_an_operand : Format.n.admits [0] = false := by decide
theorem test_d16_refuses_17_bits : Format.d16.admits [0x10000] = false := by decide
theorem test_d8_refuses_9_bits : Format.d8.admits [256] = false := by decide
theorem test_x_refuses_wide_index : Format.x.admits [0x10000] = false := by decide
theorem test_xd8_refuses_wide_index : Format.xd8.admits [0x10000, 0] = false := by decide
theorem test_xd8_refuses_wide_value : Format.xd8.admits [0x200, 256] = false := by decide
theorem test_xb_refuses_wide_index : Format.xb.admits [0x10000, 1] = false := by decide
theorem test_xb_refuses_2 : Format.xb.admits [3, 2] = false := by decide
theorem test_missing_operand_refused : Format.xd8.admits [0x200] = false := by decide
theorem test_admits_the_bounds :
    (Format.d16.admits [0xFFFF] && Format.d8.admits [255] && Format.xd8.admits [0xFFFF, 255] && Format.xb.admits [0xFFFF, 1])
      = true := by decide

/-! ### Decoding: one word a row, written out from R71 and R75 -/

theorem test_decode_family40 :
    decode 0b00001_000_0000000000000000_0000001000000010#40 = .ok (.push 0x0202) ∧
    decode 0b00010_000_0000000000000000_0000000000000000#40 = .ok .pop ∧
    decode 0b00011_000_0000000000000000_0000111111111110#40 = .ok (.setpc 0x0FFE) ∧
    decode 0b00100_000_0000000000000000_0000111111111111#40 = .ok (.seti 0x0FFF) ∧
    decode 0b10100_000_0000000000000000_0000000000000000#40 = .ok .getpc ∧
    decode 0b10101_000_0000000000000000_0000000000000000#40 = .ok .geti ∧
    decode 0b10110_000_0000000000000000_0000000000000000#40 = .ok .getsp := ⟨rfl, rfl, rfl, rfl, rfl, rfl, rfl⟩

theorem test_decode_family41 :
    decode 0b00101_000_0000001000000000_0000000000000000#40 = .ok (.rdmem 0x200) ∧
    decode 0b00110_000_0000001000000000_0000000010100010#40 = .ok (.wrmem 0x200 0xA2) ∧
    decode 0b00111_000_0000000000001111_0000000000000000#40 = .ok (.rdreg 15) ∧
    decode 0b01000_000_0000000000001111_0000000011111111#40 = .ok (.wrreg 15 0xFF) ∧
    decode 0b01001_000_0000011111111111_0000000000000000#40 = .ok (.rdpix 2047) ∧
    decode 0b01010_000_0000100000000000_0000000000000010#40 = .ok (.wrpix 2048 2) ∧
    decode 0b01011_000_0000000000000101_0000000000000000#40 = .ok (.rdkey 5) ∧
    decode 0b01100_000_0000000000000101_0000000000000001#40 = .ok (.wrkey 5 true) :=
  ⟨rfl, rfl, rfl, rfl, rfl, rfl, rfl, rfl⟩

theorem test_decode_family42_43_44 :
    decode 0b01101_000_0000000000000000_0000000011111010#40 = .ok (.setdt 250) ∧
    decode 0b01110_000_0000000000000000_0000000010010110#40 = .ok (.setst 150) ∧
    decode 0b01111_000_0000000000000000_0000000000000000#40 = .ok .tick ∧
    decode 0b10111_000_0000000000000000_0000000000000000#40 = .ok .getdt ∧
    decode 0b11000_000_0000000000000000_0000000000000000#40 = .ok .getst ∧
    decode 0b10000_000_0000000000000000_0000000000000000#40 = .ok .render ∧
    decode 0b10001_000_0000000000000000_0000000000000000#40 = .ok .live ∧
    decode 0b10010_000_0000000000000000_0000000000000000#40 = .ok .beepon ∧
    decode 0b10011_000_0000000000000000_0000000000000000#40 = .ok .beepoff :=
  ⟨rfl, rfl, rfl, rfl, rfl, rfl, rfl, rfl, rfl⟩

/-- 95 part 2.1 and the raw words of part 2.2. -/
theorem test_decode_refuses :
    decode 0x0000000000 = .error .reservedOpcode ∧ decode 0xC800000000 = .error .reservedOpcode ∧
    decode 0xF800000000 = .error .reservedOpcode ∧ decode 0xFFFFFFFFFF = .error .reservedOpcode ∧
    decode 0xA100000000 = .error .mustBeZeroSet ∧ decode 0x0A00000202 = .error .mustBeZeroSet ∧
    decode 0xA000000001 = .error .mustBeZeroSet ∧ decode 0x8000010000 = .error .mustBeZeroSet ∧
    decode 0x9800000001 = .error .mustBeZeroSet ∧ decode 0x0800010202 = .error .mustBeZeroSet ∧
    decode 0x30020001FF = .error .mustBeZeroSet ∧ decode 0x6000030002 = .error .mustBeZeroSet ∧
    decode 0x6800000100 = .error .mustBeZeroSet := ⟨rfl, rfl, rfl, rfl, rfl, rfl, rfl, rfl, rfl, rfl, rfl, rfl, rfl⟩

/-- R100, R121, R127: the words of the examples. -/
theorem test_encode :
    encode (.push 0x0202) = 0x0800000202 ∧ encode (.wrmem 0x200 0xA2) = 0x30020000A2 ∧
    encode (.wrkey 5 true) = 0x6000050001 ∧ encode .getst = 0xC000000000 := by decide

/-- R79: `WRMEM 0x200, 0xA2`. -/
theorem test_assemble : Line.assemble { mnemonic := .wrmem, operands := [0x200, 0xA2] } = some 0x30020000A2 := by decide

/-- R79: the lines of its examples, and their words from 95_test_vectors.md. -/
theorem test_assemble_text :
    assembleText "POP" = some 0x1000000000 ∧ assembleText "PUSH 0x0202" = some 0x0800000202 ∧
    assembleText "SETDT 250" = some 0x68000000FA ∧ assembleText "RDMEM 0x200" = some 0x2802000000 ∧
    assembleText "WRMEM 0x200, 0xA2" = some 0x30020000A2 ∧ assembleText "WRKEY 5, 1" = some 0x6000050001 := by decide

/-- R79: an operand that does not fit is an error, and so is a missing or an unknown one. -/
theorem test_assemble_text_refuses :
    assembleText "SETDT 256" = none ∧ assembleText "WRKEY 5, 2" = none ∧ assembleText "WRMEM 0x200" = none ∧
    assembleText "POP 1" = none ∧ assembleText "JMP 1" = none ∧ assembleText "PUSH 0x" = none := by decide

/-- The table's numbering: a row's word as the host gives it. -/
theorem test_table_word : decodeTableWord 40 0x1800000300 = some (.setpc 0x300) := by decide

/-! ### The step -/

/-- 95 part 2.2: `PUSH 0x0202` from reset, through the port. -/
theorem test_step_push :
    nextIs (step (State.reset.withFetchWord 40 0x0800000202))
      (fun t => t.sp == 1 && t.stack[0] == 0x0202 && t.resp == okResp 0 && t.port == []) = true := by decide

/-- 95 part 2.1: an illegal word. -/
theorem test_step_illegal :
    nextIs (step (State.reset.withFetchWord 40 0x0A00000202))
      (fun t => t.sp == 0 && t.resp == failResp .illegalCommand && t.port == []) = true := by decide

/-- R72, R202: a failed read answers its code and 0. -/
theorem test_response_pair : Response.pair { status := .invalidMemoryAccess, rdata := 0 } = (5, 0) := by decide

/-- The last byte whose address an index can present is issued, the one after is not (D9; log entry 16). -/
theorem test_load_does_not_wrap : loadCommands 0xFFFF [0x12, 0x34] = [.wrmem 0xFFFF 0x12] := by decide

/-- R201: the codes of the first and the last status. -/
theorem test_status_codes : Status.stackOverflow.code = 1 ∧ Status.illegalCommand.code = 11 := by decide

/-! ### Family 40 (95 part 2.2) -/

theorem test_push_at_15 :
    nextIs (exec (.push 0xFFFF) (atSp 15)) (fun t => t.sp == 16 && t.stack[15] == 0xFFFF && t.resp == okResp 0) = true := by
  decide
theorem test_push_at_16 :
    nextIs (exec (.push 0x0202) (atSp 16)) (fun t => t.sp == 16 && t.stack[15] == 0 && t.resp == failResp .stackOverflow)
      = true := by decide
theorem test_pop_keeps_slot :
    nextIs (exec .pop ((atSp 1).writeSlot 0 0x0202))
      (fun t => t.sp == 0 && t.stack[0] == 0x0202 && t.resp == okResp 0x0202) = true := by decide
theorem test_pop_empty : nextIs (exec .pop State.reset) (fun t => t.resp == failResp .stackUnderflow) = true := by decide
theorem test_setpc_4094 : nextIs (exec (.setpc 0x0FFE) State.reset) (fun t => t.pc == 0x0FFE) = true := by decide
theorem test_setpc_4095 :
    nextIs (exec (.setpc 0x0FFF) State.reset) (fun t => t.pc == 0x200 && t.resp == failResp .programCounterOutOfBounds)
      = true := by decide
theorem test_seti_4095 : nextIs (exec (.seti 0x0FFF) State.reset) (fun t => t.I == 0x0FFF) = true := by decide
theorem test_seti_4096 :
    nextIs (exec (.seti 0x1000) State.reset) (fun t => t.I == 0 && t.resp == failResp .addressRegisterOutOfBounds)
      = true := by decide
theorem test_getpc : nextIs (exec .getpc State.reset) (fun t => t.resp == okResp 0x0200) = true := by decide
theorem test_geti : nextIs (exec .geti { State.reset with I := 0x0FFF }) (fun t => t.resp == okResp 0x0FFF) = true := by
  decide
theorem test_getsp : nextIs (exec .getsp (atSp 16)) (fun t => t.resp == okResp 0x0010) = true := by decide

/-! ### Family 41 (95 part 2.2) -/

theorem test_rdmem_bounds :
    nextIs (exec (.rdmem 0x0FFF) (State.reset.writeMem 0xFFF 0xFF)) (fun t => t.resp == okResp 0x00FF) = true ∧
    nextIs (exec (.rdmem 0x1000) State.reset) (fun t => t.resp == failResp .invalidMemoryAccess) = true := by decide
theorem test_wrmem :
    nextIs (exec (.wrmem 0x200 0xA2) State.reset) (fun t => t.mem == [(0x200, 0xA2)] && t.resp == okResp 0) = true := by
  decide
theorem test_wrmem_zero_unlists :
    nextIs (exec (.wrmem 0x200 0) (State.reset.writeMem 0x200 0xA2)) (fun t => t.mem == []) = true := by decide
theorem test_rdreg :
    nextIs (exec (.rdreg 15) (State.reset.writeReg 15 0xFF)) (fun t => t.resp == okResp 0x00FF) = true ∧
    nextIs (exec (.rdreg 16) State.reset) (fun t => t.resp == failResp .invalidRegisterAccess) = true := by decide
theorem test_wrreg :
    nextIs (exec (.wrreg 0 0x80) State.reset) (fun t => t.x[0] == 0x80) = true ∧
    nextIs (exec (.wrreg 16 0x80) State.reset)
      (fun t => t.x[0] == 0 && t.resp == failResp .invalidRegisterAccess) = true := by decide
theorem test_rdpix :
    nextIs (exec (.rdpix 2047) (State.reset.writePix 2047 1)) (fun t => t.resp == okResp 1) = true ∧
    nextIs (exec (.rdpix 2048) State.reset) (fun t => t.resp == failResp .invalidPixelAccess) = true := by decide
theorem test_wrpix_values :
    nextIs (exec (.wrpix 330 1) State.reset) (fun t => t.fb == [(330, 1)]) = true ∧
    nextIs (exec (.wrpix 0 0xFF) (State.reset.writePix 0 1))
      (fun t => t.fb == [(0, 1)] && t.resp == failResp .invalidPixelValue) = true := by decide
theorem test_wrpix_index_first :
    nextIs (exec (.wrpix 2048 2) State.reset) (fun t => t.resp == failResp .invalidPixelAccess) = true := by decide
theorem test_rdkey :
    nextIs (exec (.rdkey 5) (State.reset.writeKey 5 true)) (fun t => t.resp == okResp 1) = true ∧
    nextIs (exec (.rdkey 16) State.reset) (fun t => t.resp == failResp .invalidKeyAccess) = true := by decide
theorem test_wrkey :
    nextIs (exec (.wrkey 15 true) State.reset) (fun t => t.key[15]) = true ∧
    nextIs (exec (.wrkey 16 true) State.reset) (fun t => t.resp == failResp .invalidKeyAccess) = true := by decide

/-! ### Family 42 (95 part 2.2) -/

theorem test_setdt : nextIs (exec (.setdt 255) State.reset) (fun t => t.dt == 255 && t.st == 0) = true := by decide
theorem test_setst : nextIs (exec (.setst 1) State.reset) (fun t => t.st == 1 && t.dt == 0) = true := by decide
theorem test_tick_stays_at_zero : nextIs (exec .tick State.reset) (fun t => t.dt == 0 && t.st == 0) = true := by decide
theorem test_tick_each_timer :
    nextIs (exec .tick { State.reset with dt := 1, st := 5 }) (fun t => t.dt == 0 && t.st == 4) = true := by decide
theorem test_getdt : nextIs (exec .getdt { State.reset with dt := 7 }) (fun t => t.resp == okResp 7 && t.dt == 7) = true := by
  decide
theorem test_getst : nextIs (exec .getst { State.reset with st := 2 }) (fun t => t.resp == okResp 2) = true := by decide

/-! ### Family 43 (95 part 2.3) -/

/-- S = 2, pixel (0,0): the foreground indices are 0, 1, 128, 129 (the writes of logical row 0). -/
theorem test_scale2_pixel0 :
    ((blockWrites 64 1 2 fun p => p == 0).filter (·.2)).map (·.1) = [0, 1, 128, 129] := by decide +kernel

/-- S = 3, pixel (1,0): 3, 4, 5, 195, 196, 197, 387, 388, 389. -/
theorem test_scale3_pixel1 :
    ((blockWrites 64 1 3 fun p => p == 1).filter (·.2)).map (·.1) = [3, 4, 5, 195, 196, 197, 387, 388, 389] := by
  decide +kernel

/-- The first pixels of rows 0 and 1 of the checkerboard at S = 2 (95 P4), on a 2 by 2 screen: FFBB, FFBB, BBFF, BBFF. -/
theorem test_scale2_checkerboard :
    (applyWrites (Vector.replicate 16 9) (blockWrites 2 2 2 fun p => if p == 0 || p == 3 then 1 else 0)).toList =
      [1, 1, 0, 0, 1, 1, 0, 0, 0, 0, 1, 1, 0, 0, 1, 1] := by decide

theorem test_render_rejected :
    nextIs (exec .render (withSurface true false false)) (fun t => t.resp == failResp .presentationFailed) = true := by decide
theorem test_render_accepted :
    nextIs (exec .render (withSurface true false true)) (fun t => t.resp == okResp 0 && t.submitted.isSome) = true := by
  decide
theorem test_live :
    nextIs (exec .live (withSurface true false true)) (fun t => t.resp == okResp 1) = true ∧
    nextIs (exec .live (withSurface true true true)) (fun t => t.resp == okResp 0) = true ∧
    nextIs (exec .live (withSurface false false true)) (fun t => t.resp == okResp 0) = true ∧
    nextIs (exec .live (withSurface false true true)) (fun t => t.resp == okResp 0) = true := by decide

/-! ### Family 44 (95 part 2.2) -/

theorem test_beepon_idle_or_ended :
    nextIs (exec .beepon (toneAt .idle [] false)) (fun t => t.tone == .sounding && t.sink.q == 1 && t.sink.playing) = true ∧
    nextIs (exec .beepon (toneAt .sounding [] true)) (fun t => t.tone == .sounding && t.sink.q == 1 && t.sink.playing) = true ∧
    nextIs (exec .beepon (toneAt .idle [Config.tone] true)) (fun t => t.tone == .sounding && t.sink.q == 2) = true := by
  decide
theorem test_beepon_in_flight :
    nextIs (exec .beepon (toneAt .sounding [Config.tone] true))
      (fun t => t.tone == .sounding && t.sink.q == 1 && t.sink.playing) = true := by decide
theorem test_beepoff :
    nextIs (exec .beepoff (toneAt .sounding [Config.tone] true))
      (fun t => t.tone == .idle && t.sink.q == 0 && !t.sink.playing) = true := by decide
theorem test_sink_drain :
    (Sink.drain { queue := [Config.tone], playing := true }).q = 0 ∧
    (Sink.drain { queue := [Config.tone], playing := false }).q = 1 := by decide

/-! ### Witnesses: for each statement with hypotheses, an input that meets them -/

theorem witness_PushStoresAtSpOrOverflows : (atSp 16).sp.toNat = 16 ∧ (atSp 15).sp.toNat < 16 := by decide
theorem witness_PopAnswersTopOrUnderflows :
    (atSp 0).sp.toNat = 0 ∧ (0 < (atSp 16).sp.toNat ∧ (atSp 16).sp.toNat - 1 < 16) := by decide
theorem witness_IllegalStackPointerStops : 16 < (atSp 17).sp.toNat ∧ 16 < (atSp 31).sp.toNat := by decide
theorem witness_StackIsLifoOfDepthSixteen :
    (atSp 16).sp.toNat ≤ 16 ∧ State.reset.sp.toNat ≤ 16 ∧
    stackRun [some 7, none, none] State.reset =
      some [{ status := .ok, rdata := 0 }, { status := .ok, rdata := 7 }, { status := .stackUnderflow, rdata := 0 }] := by
  decide
theorem witness_SetpcTestsIncomingValue : 4094 < (0x0FFF#16).toNat ∧ (0x0FFE#16).toNat ≤ 4094 := by decide
theorem witness_SetiTestsIncomingValue : 4096 ≤ (0x1000#16).toNat ∧ (0x0FFF#16).toNat < 4096 := by decide
theorem witness_reset_inv : State.reset.Inv :=
  ⟨by decide, by decide, by decide, by decide, by decide, ⟨by decide, by decide⟩⟩
theorem witness_GetCommandsAnswerTheirRegister : State.reset.Inv := witness_reset_inv
theorem witness_AcceptedPcIsFetchable :
    ∃ t, exec (.setpc 0x0FFE) State.reset = .next t ∧ t.resp = okResp 0 := ⟨_, rfl, rfl⟩
theorem witness_MemoryCommandsMoveOneCell : 4096 ≤ (0x1000#16).toNat ∧ (0x0FFF#16).toNat < 4096 := by decide
theorem witness_RegisterCommandsMoveOneRegister : 16 ≤ (16#16).toNat ∧ (15#16).toNat < 16 := by decide
theorem witness_RdpixAnswersPixel :
    2048 ≤ (2048#16).toNat ∧ (2047#16).toNat < 2048 ∧ pixelsWf (State.reset.writePix 2047 1).fb = true := by decide
theorem witness_WrpixChecksIndexThenValue :
    2048 ≤ (2048#16).toNat ∧ (2047#16).toNat < 2048 ∧ (2 : Byte) ≠ 0 ∧ (2 : Byte) ≠ 1 ∧ ((1 : Byte) = 0 ∨ (1 : Byte) = 1) := by
  decide
theorem witness_KeyCommandsLatchOneKey :
    16 ≤ (16#16).toNat ∧ (15#16).toNat < 16 ∧
    (∃ t, exec (.wrkey 4 true) State.reset = .next t) ∧
    (∀ n b, Instr.wrkey 4 true = .wrkey n b → n.toNat ≠ (5 : Fin 16).val) ∧
    opField 0x6000030002 = 0x0C ∧ dataField 0x6000030002 ≠ 0 ∧ dataField 0x6000030002 ≠ 1 := by
  refine ⟨by decide, by decide, ⟨_, rfl⟩, ?_, by decide, by decide, by decide⟩
  intro n b h
  cases h
  decide
theorem witness_WriteThenReadAnswersWrittenValue :
    (∃ t, issueAll [.wrmem 0x0FFF 0xFF, .tick] State.reset = .next t) ∧ (∀ v', Instr.wrmem 0x0FFF v' ∉ [.tick]) ∧
    (∃ t, issueAll [.wrreg 15 0xFF, .tick] State.reset = .next t) ∧ (∀ v', Instr.wrreg 15 v' ∉ [.tick]) ∧
    (∃ t, issueAll [.wrpix 2047 1, .tick] State.reset = .next t) ∧ (∀ v', Instr.wrpix 2047 v' ∉ [.tick]) ∧
    (∃ t, issueAll [.wrkey 15 true, .tick] State.reset = .next t) ∧ (∀ b', Instr.wrkey 15 b' ∉ [.tick]) :=
  ⟨⟨_, rfl⟩, by simp, ⟨_, rfl⟩, by simp, ⟨_, rfl⟩, by simp, ⟨_, rfl⟩, by simp⟩
theorem witness_TimersFallByTheNumberOfTicks :
    (∃ t, issueAll [.tick, .pop, .tick] { State.reset with dt := 1, st := 3 } = .next t) ∧
    (∀ v, Instr.setdt v ∉ [.tick, .pop, .tick]) ∧ (∀ v, Instr.setst v ∉ [.tick, .pop, .tick]) :=
  ⟨⟨_, rfl⟩, by simp, by simp⟩
theorem witness_RenderReplicatesEachPixel : 0 < 64 * Config.scale ∧ 0 < 32 * Config.scale := by
  simp [Config.scale]
theorem witness_RenderAndToneCommandCommute : Instr.beepon = .beepon ∨ Instr.beepon = .beepoff := .inl rfl
theorem witness_BeeponStartsAtMostOneTone :
    (State.reset.sink.queue = [] ∨ State.reset.tone = .idle) ∧
    ((toneAt .sounding [Config.tone] true).sink.queue ≠ [] ∧ (toneAt .sounding [Config.tone] true).tone = .sounding) :=
  ⟨.inl rfl, by simp [toneAt], rfl⟩
theorem witness_ToneCommandsTouchOnlyToneAndSink :
    ∃ t t', (atSp 3).tone = State.reset.tone ∧ (atSp 3).sink = State.reset.sink ∧
      exec .beepon State.reset = .next t ∧ exec .beepon (atSp 3) = .next t' := ⟨_, _, rfl, rfl, rfl, rfl⟩
theorem witness_ToneGateNeverStacksTones :
    State.reset.ToneGate ∧ ∃ t, step (State.reset.withFetchWord 40 0x9000000000) = .next t :=
  ⟨⟨by decide, by decide⟩, _, rfl⟩
theorem witness_SinkMovesOnlyByDrains :
    let k : Sink := { queue := [Config.tone], playing := true }
    (k.playing = true ∧ 0 < k.q) ∧ (Sink.drain k).q = 0 := by decide
theorem witness_EachElementHasItsWriters :
    (∃ t, exec (.setpc 0x300) State.reset = .next t ∧ t.pc ≠ State.reset.pc) ∧
    (∃ t, exec (.wrreg 15 1) State.reset = .next t ∧ t.x ≠ State.reset.x) ∧
    (∃ t, exec (.seti 0xFFF) State.reset = .next t ∧ t.I ≠ State.reset.I) ∧
    (∃ t, exec (.push 7) (atSp 15) = .next t ∧ t.sp ≠ (atSp 15).sp ∧ t.stack ≠ (atSp 15).stack) ∧
    (∃ t, exec (.wrmem 0xFFF 1) State.reset = .next t ∧ t.mem ≠ State.reset.mem) ∧
    (∃ t, exec (.wrpix 2047 1) State.reset = .next t ∧ t.fb ≠ State.reset.fb) ∧
    (∃ t, exec (.wrkey 15 true) State.reset = .next t ∧ t.key ≠ State.reset.key) ∧
    (∃ t, exec (.setdt 255) State.reset = .next t ∧ t.dt ≠ State.reset.dt) ∧
    (∃ t, exec (.setst 255) State.reset = .next t ∧ t.st ≠ State.reset.st) ∧
    (∃ t, exec .beepon State.reset = .next t ∧ t.tone ≠ State.reset.tone) ∧
    (∃ t, exec .tick State.reset = .next t ∧ Instr.tick.mnemonic ≠ .render) := by
  refine ⟨⟨_, rfl, ?_⟩, ⟨_, rfl, ?_⟩, ⟨_, rfl, ?_⟩, ⟨_, rfl, ?_, ?_⟩, ⟨_, rfl, ?_⟩, ⟨_, rfl, ?_⟩, ⟨_, rfl, ?_⟩, ⟨_, rfl, ?_⟩,
    ⟨_, rfl, ?_⟩, ⟨_, rfl, ?_⟩, ⟨_, rfl, ?_⟩⟩ <;> decide
theorem witness_FailureChangesNothing :
    (∃ t, runWord 0xC800000000 State.reset = .next t ∧ t.resp = failResp .illegalCommand) ∧
    (∃ t, runWord 0x8000000000 (withSurface true false false) = .next t ∧ t.resp = failResp .presentationFailed) :=
  ⟨⟨_, rfl, rfl⟩, ⟨_, rfl, rfl⟩⟩
theorem witness_EachFailureHasItsCause :
    ∃ t, runWord 0x5008000002 State.reset = .next t ∧ t.resp = failResp .invalidPixelAccess := ⟨_, rfl, rfl⟩
theorem witness_NeverFailingCommandsAnswerOk :
    Instr.tick.mnemonic ∈
      [Mnemonic.setdt, .setst, .tick, .live, .beepon, .beepoff, .getpc, .geti, .getsp, .getdt, .getst] := by decide
theorem witness_ReadCommandsHaveNoSideEffect :
    (Instr.rdmem 5).mnemonic ∈ [Mnemonic.rdmem, .rdreg, .rdpix, .rdkey, .getpc, .geti, .getsp, .getdt, .getst] ∧
    (∃ t, exec .pop (atSp 1) = .next t) ∧ (atSp 1).sp ≠ 0 := ⟨by decide, ⟨_, rfl⟩, by decide⟩
theorem witness_ToneIsHidden : ∃ t, exec .beepon State.reset = .next t := ⟨_, rfl⟩
theorem witness_EveryStepKeepsInvariant :
    (State.reset.withFetchWord 40 0x5007FF0001).Inv ∧ ∃ t, step (State.reset.withFetchWord 40 0x5007FF0001) = .next t :=
  ⟨⟨by decide, by decide, by decide, by decide, by decide, ⟨by decide, by decide⟩⟩, _, rfl⟩
theorem witness_NoStepStopsFromInvariant :
    (State.reset.withFetchWord 40 0x0800000202).Inv ∧ (State.reset.withFetchWord 40 0x0800000202).port = [0x0800000202] :=
  ⟨⟨by decide, by decide, by decide, by decide, by decide, ⟨by decide, by decide⟩⟩, by decide⟩
theorem witness_EngineTurnLeavesOutputsAlone :
    ∃ t, engineTurn (fun seen => if seen.length < 2 then some .tick else none) 5 [] State.reset = .next t := ⟨_, rfl⟩
theorem witness_GateFollowsSoundTimer :
    { State.reset with st := 1 }.st ≠ 0 ∧ State.reset.sink.q = 0 ∧ State.reset.st = 0 := by decide
theorem witness_BootLoadsTheImage :
    (1 < [(0x12 : Byte), 0x34].length ∧ 0x200 + 1 < 4096) ∧
    (0x1FF < 0x200 ∧ 0x200 + [(0x12 : Byte), 0x34].length ≤ 0x202 ∧ 4096 ≤ 4096) := by decide
theorem witness_LoopIterationKeepsInvariant :
    State.reset.Inv ∧ (∃ u, present false State.reset = .next (u, false)) ∧
    (∃ t, gate { State.reset with st := 1 } = .next t ∧ t.st ≠ 0) ∧ (∃ t, gate State.reset = .next t ∧ t.st = 0) :=
  ⟨witness_reset_inv, ⟨_, rfl⟩, ⟨_, rfl, by decide⟩, ⟨_, rfl, rfl⟩⟩
theorem witness_HostRendersWhileLiveAnswersOne :
    ((withSurface true false false).surface.isOpen = true ∧ (withSurface true false false).surface.quit = false) ∧
    ((withSurface true true true).surface.isOpen = false ∨ (withSurface true true true).surface.quit = true) := by decide
theorem witness_StepRunsTheDecodedCommand :
    (State.reset.withFetchWord 40 0x7800000000).port = 0x7800000000 :: [] ∧ decode 0x7800000000 = .ok .tick ∧
    decode 0 = .error .reservedOpcode ∧ State.reset.port = [] := ⟨by decide, rfl, rfl, rfl⟩
theorem witness_DecodeFollowsTheOrder : decode 0x7800000000 = .ok .tick ∧ Mnemonic.owns .tick 0x7800000000 = true :=
  ⟨rfl, by decide⟩
theorem witness_NoWordBelongsToTwoRows : Mnemonic.owns .wrmem 0x30020000A2 = true := by decide
theorem witness_EncodeOfDecodeIsTheWord : decode 0x30020000A2 = .ok (.wrmem 0x200 0xA2) := rfl
theorem witness_AssembledLineDecodesToItself :
    Line.wellFormed { mnemonic := .wrkey, operands := [5, 1] } = true ∧
    Line.wellFormed { mnemonic := .wrkey, operands := [5, 2] } = false := by decide

end Sys2Proof.Tests
end

section
/-! PROOFS. Progress (R12, R200): where the stack pointer is legal every command, and so every command word, is answered with a
next state, and the answer leaves the command port alone. -/

namespace Sys2Proof.Machine

/-! ### Every command is answered -/

/-- A legal stack pointer that is not at the top names the slot PUSH writes, so PUSH does not stop (R100). -/
theorem execPush_completes {s : State} (hsp : s.sp.toNat ≤ stackDepth) (v : Word) : ∃ t, execPush v s = .next t := by
  unfold execPush
  split
  · exact ⟨_, rfl⟩
  · next htop =>
    have hslot : s.sp.toNat < stackDepth := lt_of_le_of_ne hsp fun h => htop (BitVec.eq_of_toNat_eq h)
    rw [indexOf_of_lt hslot]
    exact ⟨_, rfl⟩

/-- A legal stack pointer that is not 0 has below it the slot POP reads, so POP does not stop (R101). -/
theorem execPop_completes {s : State} (hsp : s.sp.toNat ≤ stackDepth) : ∃ t, execPop s = .next t := by
  unfold execPop
  split
  · exact ⟨_, rfl⟩
  · next hempty =>
    have hslot : (s.sp - 1).toNat < stackDepth := by bv_omega
    rw [indexOf_of_lt hslot]
    exact ⟨_, rfl⟩

/-- No command but PUSH and POP has a path that stops, whatever the state: each check that fails raises an answer (R202). -/
theorem exec_completes_of_not_stack {i : Instr} (hi : i.mnemonic ∉ [.push, .pop]) (s : State) :
    ∃ t, exec i s = .next t := by
  cases i with
  | push _ | pop => simp [Instr.mnemonic] at hi
  | setpc _ | seti _ =>
    simp only [exec, execSetpc, execSeti]
    split <;> exact ⟨_, rfl⟩
  | rdmem _ | wrmem _ _ | rdreg _ | wrreg _ _ | rdpix _ | rdkey _ | wrkey _ _ =>
    simp only [exec, execRdmem, execWrmem, execRdreg, execWrreg, execRdpix, execRdkey, execWrkey]
    split <;> exact ⟨_, rfl⟩
  | wrpix _ _ =>
    simp only [exec, execWrpix]
    split
    · exact ⟨_, rfl⟩
    · split <;> exact ⟨_, rfl⟩
  | beepon =>
    simp only [exec, execBeepon]
    split <;> exact ⟨_, rfl⟩
  | setdt _ | setst _ | tick | render | live | beepoff | getpc | geti | getsp | getdt | getst => exact ⟨_, rfl⟩

theorem exec_completes {s : State} (hsp : s.sp.toNat ≤ stackDepth) (i : Instr) : ∃ t, exec i s = .next t := by
  by_cases hi : i.mnemonic ∈ [.push, .pop]
  · cases i with
    | push v => exact execPush_completes hsp v
    | pop => exact execPop_completes hsp
    | _ => simp [Instr.mnemonic] at hi
  · exact exec_completes_of_not_stack hi s

theorem runWord_completes {s : State} (hsp : s.sp.toNat ≤ stackDepth) (w : CmdWord) : ∃ t, runWord w s = .next t := by
  cases hw : decode w with
  | error e => exact ⟨_, runWord_of_error hw s⟩
  | ok i =>
    rw [runWord_of_ok hw]
    exact exec_completes hsp i

/-! ### What the answer leaves on the port -/

/-- No command reads or writes the command port. -/
theorem Update.port_eq {i : Instr} {s u : State} (h : Update i s u) : u.port = s.port := by
  cases h <;> rfl

/-- A command word that is run leaves a response and no change of the port, the word decoding or not (R72, R76). -/
theorem runWord_next_port_resp {w : CmdWord} {s t : State} (h : runWord w s = .next t) :
    t.port = s.port ∧ ∃ r, t.resp = some r := by
  cases hw : decode w with
  | error e =>
    rw [runWord_of_error hw] at h
    cases h
    exact ⟨rfl, _, rfl⟩
  | ok i =>
    rw [runWord_of_ok hw] at h
    obtain ⟨u, e, d, rfl, hu, -⟩ := exec_next h
    exact ⟨hu.port_eq, _, rfl⟩

/-- Progress of a step from the one invariant it needs, a legal stack pointer (R28). -/
theorem step_completes {s : State} (hsp : s.sp.toNat ≤ stackDepth) :
    ∃ t, step s = .next t ∧ ∀ w rest, s.port = w :: rest → t.port = rest ∧ ∃ r, t.resp = some r := by
  cases hport : s.port with
  | nil => exact ⟨_, step_eq_next.2 (.inl ⟨hport, rfl⟩), fun _ _ h => nomatch h⟩
  | cons w rest =>
    obtain ⟨u, hu⟩ := runWord_completes (s := { s with port := rest }) hsp w
    refine ⟨_, step_eq_next.2 (.inr ⟨w, rest, u, hport, hu, rfl⟩), ?_⟩
    rintro _ _ ⟨⟩
    simpa using runWord_next_port_resp hu

/-- Settles O37: of the invariant only the legal stack pointer is needed, for PUSH and POP alone have a path that stops. -/
theorem noStepStopsFromInvariant : Obligations.NoStepStopsFromInvariant := by
  unfold Obligations.NoStepStopsFromInvariant
  exact fun _ hinv => step_completes hinv.sp

end Sys2Proof.Machine
end

section
/-! PROOFS. The state and its rules (10_state.md): the creation values (R22 to R37), the invariants kept by every step (R41, R176),
the writers of each element (R40), the hidden tone (R37), and the stop at an illegal stack pointer (R28). -/

namespace Sys2Proof.Machine

/-! ### The invariants, kept by every step -/

/-- The tone gate's invariant speaks of the tone and the Sink alone. -/
theorem State.ToneGate.of_eq {s t : State} (h : s.ToneGate) (htone : t.tone = s.tone) (hsink : t.sink = s.sink) :
    t.ToneGate :=
  ⟨by rw [htone, hsink]; exact h.sounding, by rw [hsink]; exact h.atMostOne⟩

/-- Of the core state the invariant reads nothing outside the machine state and the tone gate. -/
theorem State.Inv.of_sameMachine {s t : State} (h : s.Inv) (hm : s.SameMachine t) (htone : t.ToneGate) : t.Inv where
  pc := by rw [hm.pc]; exact h.pc
  I := by rw [hm.I]; exact h.I
  sp := by rw [hm.sp]; exact h.sp
  mem := by rw [hm.mem]; exact h.mem
  fb := by rw [hm.fb]; exact h.fb
  tone := htone

theorem respond_inv {s : State} (h : s.Inv) (e : Status) (d : Word) : (respond e d s).Inv :=
  h.of_sameMachine (respond_sameCore e d s).machine (h.tone.of_eq rfl rfl)

theorem environment_inv {s : State} (h : s.Inv) : (environment s).Inv :=
  h.of_sameMachine (environment_sameCore s).machine (environment_toneGate h.tone)

/-- Where BEEPON starts a tone nothing is queued: the Sink is empty, or the tone is Idle and so nothing is queued (R171, R176). -/
theorem State.ToneGate.q_eq_zero {s : State} (h : s.ToneGate) (hr : resync s.sink.isEmpty s.tone = .idle) : s.sink.q = 0 := by
  by_contra hq
  have hsounding : s.tone = .sounding := h.sounding (Nat.pos_of_ne_zero hq)
  simp [resync, hq, hsounding] at hr

/-- The one waveform a BEEPON enqueues is the only one queued, and the tone is then Sounding (R171). -/
theorem startTone_toneGate {s : State} (h : s.ToneGate) (hr : resync s.sink.isEmpty s.tone = .idle) :
    s.startTone.ToneGate where
  sounding _ := rfl
  atMostOne := by simp [State.startTone, h.q_eq_zero hr]

/-- Only BEEPON's and BEEPOFF's updates touch the tone and the Sink. -/
theorem Update.toneGate {i : Instr} {s u : State} (h : Update i s u) (hs : s.ToneGate) : u.ToneGate := by
  cases h with
  | startTone _ hr => exact startTone_toneGate hs hr
  | beepoff => exact ⟨by simp, by simp⟩
  | same | push | pop | setpc | seti | wrmem | wrreg | wrpix | wrkey | setdt | setst | tick | render =>
    exact hs.of_eq rfl rfl

/-- Every update of a command keeps the invariants: each write stays inside the bound its command has checked (R41). -/
theorem Update.inv {i : Instr} {s u : State} (h : Update i s u) (hs : s.Inv) : u.Inv := by
  have htone : u.ToneGate := h.toneGate hs.tone
  cases h with
  | push v _ k hk =>
    have hsp : (s.sp + 1).toNat ≤ stackDepth := by have := k.isLt; bv_omega
    exact { hs with sp := hsp, tone := htone }
  | pop _ hne =>
    have hsp : (s.sp - 1).toNat ≤ stackDepth := by have := hs.sp; bv_omega
    exact { hs with sp := hsp, tone := htone }
  | setpc v _ hv => exact { hs with pc := hv, tone := htone }
  | seti v _ hv => exact { hs with I := hv, tone := htone }
  | wrmem a v _ k => exact { hs with mem := writeMem_wf hs.mem k v, tone := htone }
  | wrpix p v _ k _ hv => exact { hs with fb := writePix_wf hs.fb k hv, tone := htone }
  | same | wrreg | wrkey | setdt | setst | tick | render | startTone | beepoff => exact { hs with tone := htone }

theorem exec_inv {i : Instr} {s t : State} (hs : s.Inv) (h : exec i s = .next t) : t.Inv := by
  obtain ⟨u, e, d, rfl, hu, -⟩ := exec_next h
  exact respond_inv (hu.inv hs) e d

theorem runWord_inv {w : CmdWord} {s t : State} (hs : s.Inv) (h : runWord w s = .next t) : t.Inv := by
  cases hw : decode w with
  | error e =>
    rw [runWord_of_error hw] at h
    cases h
    exact respond_inv hs _ _
  | ok i =>
    rw [runWord_of_ok hw] at h
    exact exec_inv hs h

/-- Settles O36: the command's update, its response and the environment's move each keep the invariants. -/
theorem everyStepKeepsInvariant : Obligations.EveryStepKeepsInvariant := by
  unfold Obligations.EveryStepKeepsInvariant
  intro s t hs hstep
  rcases step_eq_next.1 hstep with ⟨-, rfl⟩ | ⟨w, rest, u, -, hu, rfl⟩
  · exact environment_inv hs
  · have htaken : { s with port := rest }.Inv := { hs with tone := hs.tone.of_eq rfl rfl }
    exact environment_inv (runWord_inv htaken hu)

/-! ### The writers of each element -/

/-- Settles O30: an update changes the elements of its own command, and the response changes none. -/
theorem eachElementHasItsWriters : Obligations.EachElementHasItsWriters := by
  unfold Obligations.EachElementHasItsWriters
  intro i s t h
  obtain ⟨u, e, d, rfl, hu, -⟩ := exec_next h
  cases hu with
  | same => simp
  | push | pop | setpc | seti | wrmem | wrreg | wrpix | wrkey | setdt | setst | tick | render | startTone | beepoff =>
    simp [Instr.mnemonic]

/-! ### The hidden tone -/

/-- A command of another family than the tone's does not read the tone: with another tone it goes the same way, and leaves that
tone (R37, R177). -/
theorem exec_withTone {i : Instr} (hi : i ≠ .beepon ∧ i ≠ .beepoff) (s : State) (tn : Tone) :
    exec i { s with tone := tn } = andThen (exec i s) fun t => .next { t with tone := tn } := by
  cases i with
  | beepon | beepoff => simp at hi
  | push _ =>
    simp only [exec, execPush]
    split
    · rfl
    · split <;> rfl
  | pop =>
    simp only [exec, execPop]
    split
    · rfl
    · split <;> rfl
  | wrpix _ _ =>
    simp only [exec, execWrpix]
    split
    · rfl
    · split <;> rfl
  | setpc _ | seti _ =>
    simp only [exec, execSetpc, execSeti]
    split <;> rfl
  | rdmem _ | wrmem _ _ | rdreg _ | wrreg _ _ | rdpix _ | rdkey _ | wrkey _ _ =>
    simp only [exec, execRdmem, execWrmem, execRdreg, execWrreg, execRdpix, execRdkey, execWrkey]
    split <;> rfl
  | setdt _ | setst _ | tick | render | live | getpc | geti | getsp | getdt | getst => rfl

/-- BEEPON and BEEPOFF answer OK from every state and write the tone and the Sink alone (R171, R172, R177). -/
theorem exec_toneCommand_writes {i : Instr} (hi : i = .beepon ∨ i = .beepoff) (s : State) :
    ∃ tn k, exec i s = .next { s with tone := tn, sink := k, resp := okResp 0 } := by
  rcases hi with rfl | rfl
  · simp only [exec, execBeepon]
    split <;> exact ⟨_, _, rfl⟩
  · exact ⟨_, _, rfl⟩

/-- Settles O35: BEEPON and BEEPOFF write nothing but the tone, the Sink and one fixed response; no other command reads the
tone. -/
theorem toneIsHidden : Obligations.ToneIsHidden := by
  unfold Obligations.ToneIsHidden
  intro i s t tn h
  by_cases hi : i = .beepon ∨ i = .beepoff
  · obtain ⟨_, _, ht⟩ := exec_toneCommand_writes hi s
    obtain ⟨_, _, hu⟩ := exec_toneCommand_writes hi { s with tone := tn }
    cases h.symm.trans ht
    exact ⟨_, hu, rfl⟩
  · refine ⟨{ t with tone := tn }, ?_, rfl⟩
    rw [exec_withTone (not_or.1 hi), h, andThen_next]

/-! ### Creation -/

/-- Settles O1: `State.reset` lists the values, and a replicated vector reads its one value at every index. -/
theorem creationGivesRegisterValues : Obligations.CreationGivesRegisterValues := by
  unfold Obligations.CreationGivesRegisterValues
  exact ⟨rfl, fun _ => Vector.getElem_replicate _, rfl, rfl, fun _ => Vector.getElem_replicate _⟩

/-- Settles O2: both cell stores list no cell at creation, so every cell and every pixel reads 0. -/
theorem creationIsAllZeroAndSilent : Obligations.CreationIsAllZeroAndSilent := by
  unfold Obligations.CreationIsAllZeroAndSilent
  exact ⟨fun a => memory_read_nil a, fun p => memory_read_nil p, fun _ => Vector.getElem_replicate _, rfl, rfl, rfl, rfl, rfl⟩

/-- Nothing is queued at creation, so the tone gate's invariant holds (R176). -/
theorem reset_toneGate : State.reset.ToneGate :=
  ⟨by decide, by decide⟩

/-- Settles O3: 0x200 is a legal `pc`, 0 a legal `I` and `sp`, and both cell stores are empty. -/
theorem creationMeetsInvariant : Obligations.CreationMeetsInvariant := by
  unfold Obligations.CreationMeetsInvariant
  exact ⟨by decide, by decide, by decide, reset_mem_wf, reset_fb_wf, reset_toneGate⟩

/-! ### An illegal stack pointer -/

/-- PUSH's slot does not exist where the stack pointer is above 16 (R28, R50). -/
theorem execPush_faults_of_sp_gt {s : State} (hsp : 16 < s.sp.toNat) (v : Word) :
    execPush v s = .fault .stackSlotMissing := by
  have hne : s.sp ≠ 16 := by bv_omega
  rw [execPush, if_neg hne, indexOf_of_ge hsp.le]

/-- POP's slot, one below the stack pointer, does not exist where the stack pointer is above 16 (R28, R50). -/
theorem execPop_faults_of_sp_gt {s : State} (hsp : 16 < s.sp.toNat) : execPop s = .fault .stackSlotMissing := by
  have hne : s.sp ≠ 0 := by bv_omega
  have hslot : 16 ≤ (s.sp - 1).toNat := by bv_omega
  rw [execPop, if_neg hne, indexOf_of_ge hslot]

/-- Settles O6: neither command's own check catches the illegal value, and the slot it names does not exist. -/
theorem illegalStackPointerStops : Obligations.IllegalStackPointerStops := by
  unfold Obligations.IllegalStackPointerStops
  exact fun _ v => ⟨fun h => execPush_faults_of_sp_gt h v, execPop_faults_of_sp_gt⟩

end Sys2Proof.Machine
end

section
/-! PROOFS. The port's path to a command: the word of an instruction is decoded back to it (R71 to R76), so issuing a command is
executing it and then letting the environment move (R56, R70). -/

namespace Sys2Proof

/-- The word of an instruction belongs to its row, the per-instruction family taken over all instructions (R74, R75). -/
theorem owns_encode (i : Instr) : i.mnemonic.owns (encode i) = true := by
  cases i with
  | push v16 => exact (Laws.TableRow.push v16).2
  | pop => exact Laws.TableRow.pop.2
  | setpc v16 => exact (Laws.TableRow.setpc v16).2
  | seti v16 => exact (Laws.TableRow.seti v16).2
  | rdmem a => exact (Laws.TableRow.rdmem a).2
  | wrmem a v8 => exact (Laws.TableRow.wrmem a v8).2
  | rdreg r => exact (Laws.TableRow.rdreg r).2
  | wrreg r v8 => exact (Laws.TableRow.wrreg r v8).2
  | rdpix p => exact (Laws.TableRow.rdpix p).2
  | wrpix p v8 => exact (Laws.TableRow.wrpix p v8).2
  | rdkey k => exact (Laws.TableRow.rdkey k).2
  | wrkey k b => exact (Laws.TableRow.wrkey k b).2
  | setdt v8 => exact (Laws.TableRow.setdt v8).2
  | setst v8 => exact (Laws.TableRow.setst v8).2
  | tick => exact Laws.TableRow.tick.2
  | render => exact Laws.TableRow.render.2
  | live => exact Laws.TableRow.live.2
  | beepon => exact Laws.TableRow.beepon.2
  | beepoff => exact Laws.TableRow.beepoff.2
  | getpc => exact Laws.TableRow.getpc.2
  | geti => exact Laws.TableRow.geti.2
  | getsp => exact Laws.TableRow.getsp.2
  | getdt => exact Laws.TableRow.getdt.2
  | getst => exact Laws.TableRow.getst.2

/-- Each operand is read back from the field of the word it was written to (R71, R73). -/
theorem instr_encode (i : Instr) : i.mnemonic.instr (encode i) = i := by
  cases i with
  | push _ | setpc _ | seti _ | rdmem _ | rdreg _ | rdpix _ | rdkey _ =>
    simp [Instr.mnemonic, Mnemonic.instr, encode, Instr.idxOperand, Instr.dataOperand]
  | wrmem _ _ | wrreg _ _ | wrpix _ _ | setdt _ | setst _ =>
    simp [Instr.mnemonic, Mnemonic.instr, encode, Instr.idxOperand, Instr.dataOperand, v8Field_eq]
  | wrkey _ b =>
    have hb : (if b then 1#16 else 0#16)[0] = b := by cases b <;> rfl
    simp [Instr.mnemonic, Mnemonic.instr, encode, Instr.idxOperand, Instr.dataOperand, bField_eq, hb]
  | pop | tick | render | live | beepon | beepoff | getpc | geti | getsp | getdt | getst => rfl

theorem decode_encode (i : Instr) : decode (encode i) = .ok i :=
  decode_eq_ok.2 ⟨i.mnemonic, owns_encode i, instr_encode i⟩

namespace Machine

/-- A command that is issued is the next one taken, whatever waits on the port after it (R70). -/
theorem issue_eq (i : Instr) (s : State) : issue i s = afterCommand (exec i s) := by
  change afterCommand (runWord (encode i) s) = _
  rw [runWord_of_ok (decode_encode i)]

theorem issue_eq_next {i : Instr} {s t : State} : issue i s = .next t ↔ ∃ u, exec i s = .next u ∧ t = environment u := by
  rw [issue_eq, afterCommand_eq_next]

theorem issueAll_cons_eq_next {i : Instr} {cmds : List Instr} {s t : State} :
    issueAll (i :: cmds) s = .next t ↔ ∃ u, exec i s = .next u ∧ issueAll cmds (environment u) = .next t := by
  rw [issueAll, andThen_eq_next]
  simp only [issue_eq_next]
  constructor
  · rintro ⟨_, ⟨u, hu, rfl⟩, ht⟩
    exact ⟨u, hu, ht⟩
  · rintro ⟨u, hu, ht⟩
    exact ⟨_, ⟨u, hu, rfl⟩, ht⟩

end Machine
end Sys2Proof
end

section
/-! PROOFS. The index spaces (20_memory.md): what a command at a valid index answers and writes (R50, R51), that no other command
changes what it wrote (R57), and that a read command changes nothing (R55). -/

namespace Sys2Proof.Machine

/-! ### Reading back a cell of a store -/

@[simp] theorem readMem_writeMem (s : State) (a b : Fin memSize) (v : Byte) :
    (s.writeMem a v).readMem b = if a = b then v else s.readMem b := by
  simp [State.readMem, State.writeMem, memory_read_write, Fin.ext_iff, eq_comm]

@[simp] theorem readPix_writePix (s : State) (p q : Fin numPixels) (v : Byte) :
    (s.writePix p v).readPix q = if p = q then v else s.readPix q := by
  simp [State.readPix, State.writePix, memory_read_write, Fin.ext_iff, eq_comm]

theorem pixelValueOk_iff {v : Byte} : pixelValueOk v = true ↔ v = 0 ∨ v = 1 := by simp [pixelValueOk]

/-! ### The indexed commands at a valid index -/

theorem exec_rdmem_of_lt {a : Word} (ha : a.toNat < memSize) (s : State) :
    exec (.rdmem a) s = answer (zext8 (s.readMem ⟨a.toNat, ha⟩)) s := by
  simp only [exec, execRdmem, indexOperand_of_lt ha]

theorem exec_wrmem_of_lt {a : Word} (ha : a.toNat < memSize) (v : Byte) (s : State) :
    exec (.wrmem a v) s = done (s.writeMem ⟨a.toNat, ha⟩ v) := by
  simp only [exec, execWrmem, indexOperand_of_lt ha]

theorem exec_rdreg_of_lt {r : Word} (hr : r.toNat < numRegs) (s : State) :
    exec (.rdreg r) s = answer (zext8 (s.readReg ⟨r.toNat, hr⟩)) s := by
  simp only [exec, execRdreg, indexOperand_of_lt hr]

theorem exec_wrreg_of_lt {r : Word} (hr : r.toNat < numRegs) (v : Byte) (s : State) :
    exec (.wrreg r v) s = done (s.writeReg ⟨r.toNat, hr⟩ v) := by
  simp only [exec, execWrreg, indexOperand_of_lt hr]

theorem exec_rdpix_of_lt {p : Word} (hp : p.toNat < numPixels) (s : State) :
    exec (.rdpix p) s = answer (zext8 (s.readPix ⟨p.toNat, hp⟩)) s := by
  simp only [exec, execRdpix, indexOperand_of_lt hp]

theorem exec_wrpix_of_lt {p : Word} (hp : p.toNat < numPixels) {v : Byte} (hv : pixelValueOk v = true) (s : State) :
    exec (.wrpix p v) s = done (s.writePix ⟨p.toNat, hp⟩ v) := by
  simp only [exec, execWrpix, indexOperand_of_lt hp, if_pos hv]

theorem exec_rdkey_of_lt {k : Word} (hk : k.toNat < numKeys) (s : State) :
    exec (.rdkey k) s = answer (boolData (s.readKey ⟨k.toNat, hk⟩)) s := by
  simp only [exec, execRdkey, indexOperand_of_lt hk]

theorem exec_wrkey_of_lt {k : Word} (hk : k.toNat < numKeys) (b : Bool) (s : State) :
    exec (.wrkey k b) s = done (s.writeKey ⟨k.toNat, hk⟩ b) := by
  simp only [exec, execWrkey, indexOperand_of_lt hk]

/-! ### RDMEM and WRMEM -/

theorem exec_rdmem_of_ge {a : Word} (ha : memSize ≤ a.toNat) (s : State) :
    exec (.rdmem a) s = raise .invalidMemoryAccess s := by
  simp only [exec, execRdmem, indexOperand_of_ge ha]

theorem exec_wrmem_of_ge {a : Word} (ha : memSize ≤ a.toNat) (v : Byte) (s : State) :
    exec (.wrmem a v) s = raise .invalidMemoryAccess s := by
  simp only [exec, execWrmem, indexOperand_of_ge ha]

/-- Settles O12: the index check decides which of the two answers is given, and the write is the cell store's. -/
theorem memoryCommandsMoveOneCell : Obligations.MemoryCommandsMoveOneCell := by
  unfold Obligations.MemoryCommandsMoveOneCell
  intro s a v
  refine ⟨fun ha => ⟨exec_rdmem_of_ge ha s, exec_wrmem_of_ge ha v s⟩, fun ha => ⟨exec_rdmem_of_lt ha s, ?_⟩, rfl, rfl⟩
  exact ⟨_, exec_wrmem_of_lt ha v s, fun k => memory_read_write s.mem a.toNat k v⟩

/-! ### What a command leaves of each space: every index but the one it writes -/

theorem Update.readMem_eq {i : Instr} {s u : State} (h : Update i s u) (k : Fin memSize)
    (hi : ∀ a v, i = .wrmem a v → a.toNat ≠ k.val) : u.readMem k = s.readMem k := by
  cases h with
  | wrmem a v _ j hj =>
    have hne : j ≠ k := fun hjk => hi a v rfl (by rw [← hj, hjk])
    rw [readMem_writeMem, if_neg hne]
  | _ => rfl

theorem Update.readReg_eq {i : Instr} {s u : State} (h : Update i s u) (k : Fin numRegs)
    (hi : ∀ r v, i = .wrreg r v → r.toNat ≠ k.val) : u.readReg k = s.readReg k := by
  cases h with
  | wrreg r v _ j hj =>
    have hne : j ≠ k := fun hjk => hi r v rfl (by rw [← hj, hjk])
    rw [readReg_writeReg, if_neg hne]
  | _ => rfl

theorem Update.readPix_eq {i : Instr} {s u : State} (h : Update i s u) (k : Fin numPixels)
    (hi : ∀ p v, i = .wrpix p v → p.toNat ≠ k.val) : u.readPix k = s.readPix k := by
  cases h with
  | wrpix p v _ j hj =>
    have hne : j ≠ k := fun hjk => hi p v rfl (by rw [← hj, hjk])
    rw [readPix_writePix, if_neg hne]
  | _ => rfl

theorem Update.readKey_eq {i : Instr} {s u : State} (h : Update i s u) (k : Fin numKeys)
    (hi : ∀ n b, i = .wrkey n b → n.toNat ≠ k.val) : u.readKey k = s.readKey k := by
  cases h with
  | wrkey n b _ j hj =>
    have hne : j ≠ k := fun hjk => hi n b rfl (by rw [← hj, hjk])
    rw [readKey_writeKey, if_neg hne]
  | _ => rfl

/-! ### Every space is machine state -/

theorem State.SameMachine.readMem_eq {s t : State} (h : s.SameMachine t) (k : Fin memSize) : t.readMem k = s.readMem k := by
  unfold State.readMem
  rw [h.mem]

theorem State.SameMachine.readReg_eq {s t : State} (h : s.SameMachine t) (k : Fin numRegs) : t.readReg k = s.readReg k := by
  unfold State.readReg
  rw [h.x]

theorem State.SameMachine.readPix_eq {s t : State} (h : s.SameMachine t) (k : Fin numPixels) : t.readPix k = s.readPix k := by
  unfold State.readPix
  rw [h.fb]

theorem State.SameMachine.readKey_eq {s t : State} (h : s.SameMachine t) (k : Fin numKeys) : t.readKey k = s.readKey k := by
  unfold State.readKey
  rw [h.key]

/-! ### A run of commands, seen at one index -/

/-- What a command that is not a write at an index says of the index it does write. -/
theorem index_ne_of_not_mem {β : Type} {write : Word → β → Instr} {a : Word} {cmds : List Instr}
    (hcmds : ∀ v, write a v ∉ cmds) {i : Instr} (hi : i ∈ cmds) (n : Word) (v : β) (h : i = write n v) :
    n.toNat ≠ a.toNat := by
  intro hn
  rw [h, BitVec.eq_of_toNat_eq hn] at hi
  exact hcmds v hi

section
variable {α : Type} {read : State → α} (hcore : ∀ {s t : State}, s.SameCore t → read t = read s)
include hcore

/-- A reading of the core state that the updates of the run's commands keep is the same after the run: neither a response nor a
move of the environment changes core state. -/
theorem issueAll_keeps_read {cmds : List Instr} (hcmds : ∀ i ∈ cmds, ∀ {s u : State}, Update i s u → read u = read s)
    {s t : State} (h : issueAll cmds s = .next t) : read t = read s := by
  induction cmds generalizing s with
  | nil =>
    cases h
    rfl
  | cons i cmds ih =>
    obtain ⟨v, hv, ht⟩ := issueAll_cons_eq_next.1 h
    obtain ⟨u, e, d, rfl, hu, -⟩ := exec_next hv
    calc read t = read (environment (respond e d u)) := ih (fun j hj => hcmds j (List.mem_cons_of_mem i hj)) ht
      _ = read (respond e d u) := hcore (environment_sameCore _)
      _ = read u := hcore (respond_sameCore e d u)
      _ = read s := hcmds i List.mem_cons_self hu

/-- After a write that is done, and a run of commands that does not write its index, the state reads there as the write left
it (R57). -/
theorem read_after_write_and_run {β : Type} {write : Word → β → Instr} {a : Word} {v : β} {between : List Instr}
    {s u t : State} (hwrite : exec (write a v) s = done u) (hbetween : ∀ v', write a v' ∉ between)
    (hframe : ∀ {i : Instr} {s u : State}, Update i s u →
      (∀ n v', i = write n v' → n.toNat ≠ a.toNat) → read u = read s)
    (h : issueAll (write a v :: between) s = .next t) : read t = read u := by
  obtain ⟨w, hw, ht⟩ := issueAll_cons_eq_next.1 h
  obtain rfl : w = respond .ok 0 u := done_eq_next.1 (hwrite.symm.trans hw)
  calc read t = read (environment (respond .ok 0 u)) :=
        issueAll_keeps_read hcore (fun i hi _ _ hu => hframe hu (index_ne_of_not_mem hbetween hi)) ht
    _ = read (respond .ok 0 u) := hcore (environment_sameCore _)
    _ = read u := hcore (respond_sameCore .ok 0 u)

end

/-! ### Write, any other commands, read -/

theorem rdmem_after_wrmem {s t : State} {between : List Instr} {a : Word} {v : Byte} (ha : a.toNat < memSize)
    (hbetween : ∀ v', .wrmem a v' ∉ between) (h : issueAll (.wrmem a v :: between) s = .next t) :
    exec (.rdmem a) t = answer (zext8 v) t := by
  have hread : t.readMem ⟨a.toNat, ha⟩ = (s.writeMem ⟨a.toNat, ha⟩ v).readMem ⟨a.toNat, ha⟩ :=
    read_after_write_and_run (read := (·.readMem _)) (fun hc => hc.machine.readMem_eq _) (exec_wrmem_of_lt ha v s)
      hbetween (fun hu hi => hu.readMem_eq _ hi) h
  rw [exec_rdmem_of_lt ha, hread, readMem_writeMem, if_pos rfl]

theorem rdreg_after_wrreg {s t : State} {between : List Instr} {r : Word} {v : Byte} (hr : r.toNat < numRegs)
    (hbetween : ∀ v', .wrreg r v' ∉ between) (h : issueAll (.wrreg r v :: between) s = .next t) :
    exec (.rdreg r) t = answer (zext8 v) t := by
  have hread : t.readReg ⟨r.toNat, hr⟩ = (s.writeReg ⟨r.toNat, hr⟩ v).readReg ⟨r.toNat, hr⟩ :=
    read_after_write_and_run (read := (·.readReg _)) (fun hc => hc.machine.readReg_eq _) (exec_wrreg_of_lt hr v s)
      hbetween (fun hu hi => hu.readReg_eq _ hi) h
  rw [exec_rdreg_of_lt hr, hread, readReg_writeReg, if_pos rfl]

theorem rdpix_after_wrpix {s t : State} {between : List Instr} {p : Word} {v : Byte} (hp : p.toNat < numPixels)
    (hv : pixelValueOk v = true) (hbetween : ∀ v', .wrpix p v' ∉ between)
    (h : issueAll (.wrpix p v :: between) s = .next t) : exec (.rdpix p) t = answer (zext8 v) t := by
  have hread : t.readPix ⟨p.toNat, hp⟩ = (s.writePix ⟨p.toNat, hp⟩ v).readPix ⟨p.toNat, hp⟩ :=
    read_after_write_and_run (read := (·.readPix _)) (fun hc => hc.machine.readPix_eq _) (exec_wrpix_of_lt hp hv s)
      hbetween (fun hu hi => hu.readPix_eq _ hi) h
  rw [exec_rdpix_of_lt hp, hread, readPix_writePix, if_pos rfl]

theorem rdkey_after_wrkey {s t : State} {between : List Instr} {k : Word} {b : Bool} (hk : k.toNat < numKeys)
    (hbetween : ∀ b', .wrkey k b' ∉ between) (h : issueAll (.wrkey k b :: between) s = .next t) :
    exec (.rdkey k) t = answer (boolData b) t := by
  have hread : t.readKey ⟨k.toNat, hk⟩ = (s.writeKey ⟨k.toNat, hk⟩ b).readKey ⟨k.toNat, hk⟩ :=
    read_after_write_and_run (read := (·.readKey _)) (fun hc => hc.machine.readKey_eq _) (exec_wrkey_of_lt hk b s)
      hbetween (fun hu hi => hu.readKey_eq _ hi) h
  rw [exec_rdkey_of_lt hk, hread, readKey_writeKey, if_pos rfl]

/-- Settles O17: in each of the four spaces the write sets its cell, and every command of the run keeps that cell, by induction
on the run. -/
theorem writeThenReadAnswersWrittenValue : Obligations.WriteThenReadAnswersWrittenValue := by
  unfold Obligations.WriteThenReadAnswersWrittenValue
  exact fun _ _ _ =>
    ⟨fun _ _ ha hbetween h => rdmem_after_wrmem ha hbetween h,
      fun _ _ hr hbetween h => rdreg_after_wrreg hr hbetween h,
      fun _ _ hp hv hbetween h => rdpix_after_wrpix hp (pixelValueOk_iff.2 hv) hbetween h,
      fun _ _ hk hbetween h => rdkey_after_wrkey hk hbetween h⟩

/-! ### Read commands -/

/-- No command reads the response to the one before: each writes its own over it (R72). -/
theorem exec_withResp (i : Instr) (s : State) (q : Option Response) : exec i { s with resp := q } = exec i s := by
  cases i with
  | push _ =>
    simp only [exec, execPush]
    split
    · rfl
    · split <;> rfl
  | pop =>
    simp only [exec, execPop]
    split
    · rfl
    · split <;> rfl
  | wrpix _ _ =>
    simp only [exec, execWrpix]
    split
    · rfl
    · split <;> rfl
  | setpc _ | seti _ =>
    simp only [exec, execSetpc, execSeti]
    split <;> rfl
  | rdmem _ | wrmem _ _ | rdreg _ | wrreg _ _ | rdpix _ | rdkey _ | wrkey _ _ =>
    simp only [exec, execRdmem, execWrmem, execRdreg, execWrreg, execRdpix, execRdkey, execWrkey]
    split <;> rfl
  | beepon =>
    simp only [exec, execBeepon]
    split <;> rfl
  | setdt _ | setst _ | tick | render | live | beepoff | getpc | geti | getsp | getdt | getst => rfl

/-- The read commands of R55, whose answer follows the core state alone. -/
def readMnemonics : List Mnemonic := [.rdmem, .rdreg, .rdpix, .rdkey, .getpc, .geti, .getsp, .getdt, .getst]

/-- A read command has no update but the one that changes nothing (R55). -/
theorem Update.eq_of_read {i : Instr} {s u : State} (h : Update i s u) (hi : i.mnemonic ∈ readMnemonics) : u = s := by
  cases h with
  | same => rfl
  | push | pop | setpc | seti | wrmem | wrreg | wrpix | wrkey | setdt | setst | tick | render | startTone | beepoff =>
    simp [readMnemonics, Instr.mnemonic] at hi

/-- A read command is answered in every state, and its answer is all it changes (R55). -/
theorem exec_read_responds {i : Instr} (hi : i.mnemonic ∈ readMnemonics) (s : State) :
    ∃ e d, exec i s = .next (respond e d s) := by
  have hnotStack : i.mnemonic ∉ [.push, .pop] := by
    intro hstack
    rcases List.mem_pair.1 hstack with h | h <;> simp [readMnemonics, h] at hi
  obtain ⟨t, ht⟩ := exec_completes_of_not_stack hnotStack s
  obtain ⟨u, e, d, rfl, hu, -⟩ := exec_next ht
  obtain rfl := hu.eq_of_read hi
  exact ⟨e, d, ht⟩

/-- POP on a stack that is not empty takes the stack pointer down by one (R101). -/
theorem exec_pop_sp {s t : State} (h : exec .pop s = .next t) (hne : s.sp ≠ 0) : t.sp = s.sp - 1 := by
  simp only [exec, execPop, if_neg hne] at h
  split at h
  · cases h
  · rw [answer_eq_next.1 h, respond_sp]

/-- Settles O34: a read command's answer is its only change and does not read the answer before; LIVE answers 1 where the Surface
is open with no quit and 0 where it is closed. -/
theorem readCommandsHaveNoSideEffect : Obligations.ReadCommandsHaveNoSideEffect := by
  unfold Obligations.ReadCommandsHaveNoSideEffect
  refine ⟨fun i hi s => ?_, fun s t h hne => ?_, fun s => ⟨_, rfl⟩, fun s => ?_⟩
  · obtain ⟨e, d, ht⟩ := exec_read_responds hi s
    exact ⟨⟨e, d⟩, fun q => (exec_withResp i s q).trans ht⟩
  · rw [exec_pop_sp h hne]
    bv_omega
  · exact ⟨⟨true, false, true⟩, ⟨false, false, true⟩, 1, 0, by decide, rfl, rfl⟩

end Sys2Proof.Machine
end

section
/-! PROOFS. The command encoding (30_encoding.md): encode and decode are inverse to each other (R71, R73 to R75), the order of the
decoder's refusals (R76, R77), and the assembler's lines (R79). -/

namespace Sys2Proof

/-! ### From an instruction to its word and back -/

/-- Settles O45: the word belongs to the row of the instruction's mnemonic, and each operand is read back from its field. -/
theorem decodeOfEncodeIsTheInstruction : Obligations.DecodeOfEncodeIsTheInstruction := by
  unfold Obligations.DecodeOfEncodeIsTheInstruction
  exact decode_encode

/-- Settles O48: each accepted word is the encoding of its command; the two refused words are run through the decoder. -/
theorem sampleWordsDecodeAsWritten : Obligations.SampleWordsDecodeAsWritten := by
  unfold Obligations.SampleWordsDecodeAsWritten
  exact ⟨decode_encode (.push 0x0202), decode_encode .pop, decode_encode (.setpc 0x0FFF), decode_encode (.seti 0x1000),
    decode_encode (.rdmem 0x200), decode_encode (.wrmem 0x200 0xA2), decode_encode (.rdreg 15), decode_encode (.wrreg 15 0xFF),
    decode_encode (.rdpix 2047), decode_encode (.wrpix 330 1), decode_encode (.rdkey 5), decode_encode (.wrkey 5 true),
    decode_encode (.setdt 250), decode_encode (.setst 150), decode_encode .tick, decode_encode .render, decode_encode .live,
    decode_encode .beepon, decode_encode .beepoff, decode_encode .getpc, decode_encode .geti, decode_encode .getsp,
    decode_encode .getdt, decode_encode .getst, rfl, rfl⟩

/-! ### From a word to its instruction and back: an operand is its field without the must-be-zero bits -/

/-- Clearing bits that are 0 already changes nothing. -/
theorem and_not_eq_self {n : Nat} {x mask : BitVec n} (h : x &&& mask = 0) : x &&& ~~~mask = x := by
  calc x &&& ~~~mask = (x &&& mask) ||| (x &&& ~~~mask) := by simp [h]
    _ = x := by rw [← BitVec.and_or_distrib_left]; simp

/-- `v8`, written to 16 bits again, is `data` without its high byte (R73, R74). -/
theorem lowByte_eq_and (d : Word) : (d.setWidth 8).setWidth 16 = d &&& ~~~0xFF00#16 := by
  have hlow : d.toNat &&& 255 = d.toNat % 256 := Nat.and_two_pow_sub_one_eq_mod d.toNat 8
  apply BitVec.eq_of_toNat_eq
  simp [hlow]
  omega

/-- `b`, written to 16 bits again, is `data` without its upper 15 bits (R73, R74). -/
theorem bitZero_eq_and (d : Word) : (if d.getLsbD 0 then 1 else 0 : Word) = d &&& ~~~0xFFFE#16 := by
  rw [show ~~~0xFFFE#16 = 1#16 from rfl, BitVec.and_one_eq_setWidth_ofBool_getLsbD]
  cases d.getLsbD 0 <;> rfl

theorem instr_idxOperand (m : Mnemonic) (w : CmdWord) :
    (m.instr w).idxOperand = idxField w &&& ~~~m.format.maskIdx := by
  cases m with
  | rdmem | wrmem | rdreg | wrreg | rdpix | wrpix | rdkey | wrkey => exact (BitVec.and_allOnes (x := idxField w)).symm
  | _ => exact (BitVec.and_zero (x := idxField w)).symm

theorem instr_dataOperand (m : Mnemonic) (w : CmdWord) :
    (m.instr w).dataOperand = dataField w &&& ~~~m.format.maskData := by
  cases m with
  | push | setpc | seti => exact (BitVec.and_allOnes (x := dataField w)).symm
  | wrmem | wrreg | wrpix | setdt | setst => exact (congrArg _ (v8Field_eq w)).trans (lowByte_eq_and (dataField w))
  | wrkey => exact (congrArg (fun b => if b then (1 : Word) else 0) (bField_eq w)).trans (bitZero_eq_and (dataField w))
  | _ => exact (BitVec.and_zero (x := dataField w)).symm

/-- A word of a row is the word of its instruction: it has the row's opcode, and no bit outside the operands (R74, R76). -/
theorem encode_instr {m : Mnemonic} {w : CmdWord} (h : m.owns w = true) : encode (m.instr w) = w := by
  obtain ⟨hop, hzero⟩ := (owns_iff m w).1 h
  obtain ⟨hrsv, hidx, hdata⟩ := (mustBeZero_clear_iff m.format w).1 hzero
  rw [encode, encodeFields, instr_mnemonic, instr_idxOperand, instr_dataOperand, and_not_eq_self hidx, and_not_eq_self hdata,
    ← hop, show 0#3 = rsvField w from hrsv.symm, ← word_eq_fields]

/-- Settles O46: a word that decodes belongs to a row, and is the word of the instruction that row reads from it. -/
theorem encodeOfDecodeIsTheWord : Obligations.EncodeOfDecodeIsTheWord := by
  unfold Obligations.EncodeOfDecodeIsTheWord
  intro w i h
  obtain ⟨m, hm, rfl⟩ := decode_eq_ok.1 h
  exact encode_instr hm

/-! ### The decoder's order -/

/-- Step 1 of R76: the opcode alone decides. -/
theorem decode_eq_reservedOpcode {w : CmdWord} :
    decode w = .error .reservedOpcode ↔ Mnemonic.ofOpcode (opField w) = none := by
  unfold decode
  split
  · next h => simp [h]
  · next m h => split <;> simp [h]

/-- Step 2 of R76: the opcode has a row, and a bit that must be 0 in its format is set. -/
theorem decode_eq_mustBeZeroSet {w : CmdWord} :
    decode w = .error .mustBeZeroSet ↔ ∃ m : Mnemonic, opField w = m.opcode ∧ w &&& m.format.mustBeZero ≠ 0 := by
  simp only [← ofOpcode_eq_some]
  unfold decode
  split
  · next h => simp [h]
  · next m h => by_cases hzero : w &&& m.format.mustBeZero = 0#40 <;> simp [h, hzero]

/-- Settles O43: one equivalence for each outcome of the decoder; `rsv` is among the must-be-zero bits of every format. -/
theorem decodeFollowsTheOrder : Obligations.DecodeFollowsTheOrder := by
  unfold Obligations.DecodeFollowsTheOrder
  intro w
  refine ⟨decode_eq_reservedOpcode.trans ofOpcode_eq_none, ?_, fun i hi => ?_,
    fun m hm => ⟨_, decode_eq_ok.2 ⟨m, hm, rfl⟩, instr_mnemonic m w⟩⟩
  · have hrsv (m : Mnemonic) (h : rsvField w ≠ 0) : w &&& m.format.mustBeZero ≠ 0 :=
      fun hzero => h ((mustBeZero_clear_iff m.format w).1 hzero).1
    simp only [decode_eq_mustBeZeroSet, or_iff_right_of_imp (hrsv _)]
  · obtain ⟨m, hm, rfl⟩ := decode_eq_ok.1 hi
    rwa [instr_mnemonic]

/-- Settles O44: both rows are the row of the word's opcode. -/
theorem noWordBelongsToTwoRows : Obligations.NoWordBelongsToTwoRows := by
  unfold Obligations.NoWordBelongsToTwoRows
  intro w m n hm hn
  have hrow : Mnemonic.ofOpcode (opField w) = some m := ofOpcode_eq_some.2 ((owns_iff m w).1 hm).1
  have hrow' : Mnemonic.ofOpcode (opField w) = some n := ofOpcode_eq_some.2 ((owns_iff n w).1 hn).1
  exact Option.some.inj (hrow.symm.trans hrow')

/-! ### Assembler lines -/

/-- The operands a format reads from a word, as the numbers of an assembler line; `instr_operands` ties it to the decoder
(R73, R79). -/
def Format.operandsOf : Format → CmdWord → List Nat
  | .n, _ => []
  | .d16, w => [(dataField w).toNat]
  | .d8, w => [(v8Field w).toNat]
  | .x, w => [(idxField w).toNat]
  | .xd8, w => [(idxField w).toNat, (v8Field w).toNat]
  | .xb, w => [(idxField w).toNat, (bField w).toNat]

theorem instr_operands (m : Mnemonic) (w : CmdWord) : (m.instr w).operands = m.format.operandsOf w := by cases m <;> rfl

/-- Operands that fit their format are read back from the fields they are written to: none wraps (R79). -/
theorem operandsOf_encodeFields {f : Format} {ops : List Nat} (h : f.admits ops = true) (op : BitVec 5) :
    f.operandsOf (encodeFields op (f.fields ops).1 (f.fields ops).2) = ops := by
  unfold Format.admits at h
  split at h
  case h_1 => rfl
  case h_2 v | h_4 v =>
    have hv : v < 65536 := of_decide_eq_true h
    simp [Format.operandsOf, Format.fields, Nat.mod_eq_of_lt hv]
  case h_3 v =>
    have hv : v < 256 := of_decide_eq_true h
    simp [Format.operandsOf, Format.fields, v8Field_eq, Nat.mod_eq_of_lt hv]
  case h_5 k v =>
    obtain ⟨hk, hv⟩ : k < 65536 ∧ v < 256 := by simpa using h
    simp [Format.operandsOf, Format.fields, v8Field_eq, Nat.mod_eq_of_lt hk, Nat.mod_eq_of_lt hv]
  case h_6 k b =>
    obtain ⟨hk, hb⟩ : k < 65536 ∧ b < 2 := by simpa using h
    have hbit : ((BitVec.ofNat 16 b).getLsbD 0).toNat = b := by interval_cases b <;> rfl
    simp only [Format.operandsOf, Format.fields, idxField_encodeFields, bField_eq, dataField_encodeFields, hbit,
      BitVec.toNat_ofNat, Nat.mod_eq_of_lt hk]
  case h_7 => cases h

/-- A line whose operands fit is the line of an instruction: the one its mnemonic's row reads from the line's fields. -/
theorem exists_line_eq {l : Line} (h : l.wellFormed = true) : ∃ i : Instr, i.line = l := by
  refine ⟨l.mnemonic.instr (encodeFields l.mnemonic.opcode (l.mnemonic.format.fields l.operands).1
    (l.mnemonic.format.fields l.operands).2), ?_⟩
  rw [Instr.line, instr_mnemonic, instr_operands, operandsOf_encodeFields h]

/-- The assembler and the encoder write the same fields (R71, R79). -/
theorem fields_operands (i : Instr) : i.mnemonic.format.fields i.operands = (i.idxOperand, i.dataOperand) := by
  cases i with
  | wrkey k b =>
    have hb : BitVec.ofNat 16 b.toNat = if b then 1 else 0 := by cases b <;> rfl
    simp [Instr.mnemonic, Mnemonic.format, Instr.operands, Format.fields, Instr.idxOperand, Instr.dataOperand, hb]
  | _ => simp [Instr.mnemonic, Mnemonic.format, Instr.operands, Format.fields, Instr.idxOperand, Instr.dataOperand]

theorem assemble_line (i : Instr) : i.line.assemble = some (encode i) := by
  have hwf : i.line.wellFormed = true := instr_wellFormed i
  rw [Line.assemble, if_pos hwf, Instr.line, fields_operands, encode]

theorem assemble_of_not_wellFormed {l : Line} (h : l.wellFormed = false) : l.assemble = none := by
  simp [Line.assemble, h]

/-- Settles O47: a line that fits is an instruction's, and an instruction's line assembles to its word, which decodes to it. -/
theorem assembledLineDecodesToItself : Obligations.AssembledLineDecodesToItself := by
  unfold Obligations.AssembledLineDecodesToItself
  refine fun l => ⟨assemble_of_not_wellFormed, fun h => ?_⟩
  obtain ⟨i, rfl⟩ := exists_line_eq h
  exact ⟨encode i, i, assemble_line i, rfl, decode_encode i, rfl⟩

end Sys2Proof
end

section
/-! PROOFS. The command port (R70, R72, R76) and the Host's GATE (R80, R175): GETST, and then the one tone command the sound
timer asks for. -/

namespace Sys2Proof.Machine

/-! ### The command port -/

theorem step_of_port_nil {s : State} (h : s.port = []) : step s = .next (environment s) := by simp only [step, h]

theorem step_of_port_cons {s : State} {w : CmdWord} {rest : List CmdWord} (h : s.port = w :: rest) :
    step s = afterCommand (runWord w { s with port := rest }) := by simp only [step, h]

/-- Settles O42: the step runs the first word on the port, and what that word runs as is the decoder's to say. -/
theorem stepRunsTheDecodedCommand : Obligations.StepRunsTheDecodedCommand := by
  unfold Obligations.StepRunsTheDecodedCommand
  refine fun s => ⟨fun w rest i hport hw => ?_, fun w rest e hport hw => ?_, step_of_port_nil, environment_sameCore s⟩
  · rw [step_of_port_cons hport, runWord_of_ok hw]
  · rw [step_of_port_cons hport, runWord_of_error hw]
    rfl

/-- A command that is done is answered (OK, 0), and then the environment moves (R70, R72). -/
theorem issue_of_done {i : Instr} {s u : State} (h : exec i s = done u) :
    issue i s = .next (environment (respond .ok 0 u)) :=
  issue_eq_next.2 ⟨_, h, rfl⟩

/-! ### BEEPON and BEEPOFF, issued -/

/-- The re-synchronized tone is Idle where nothing is queued, or where the tone was Idle already (R171). -/
theorem resync_eq_idle {k : Sink} {t : Tone} : resync k.isEmpty t = .idle ↔ k.q = 0 ∨ t = .idle := by
  unfold resync
  split
  · next h => simp [(sink_isEmpty_iff k).1 h]
  · next h => rw [or_iff_right fun hq => h ((sink_isEmpty_iff k).2 hq)]

theorem exec_beepon_of_silent {s : State} (h : s.sink.q = 0 ∨ s.tone = .idle) : exec .beepon s = done s.startTone :=
  if_pos (resync_eq_idle.2 h)

theorem exec_beepon_of_inFlight {s : State} (hq : s.sink.q ≠ 0) (htone : s.tone ≠ .idle) : exec .beepon s = done s := by
  have hresync : resync s.sink.isEmpty s.tone = s.tone := if_neg fun h => hq ((sink_isEmpty_iff s.sink).1 h)
  simp only [exec, execBeepon, hresync, if_neg htone]

theorem tone_ne_idle {t : Tone} : t ≠ .idle ↔ t = .sounding := by cases t <;> decide

/-- BEEPON leaves the tone Sounding, one started or one in flight, and the Sink playing where it started one (R171). -/
theorem issue_beepon_sounds (s : State) :
    ∃ t, issue .beepon s = .next t ∧ s.SameMachine t ∧ t.devbuf = s.devbuf ∧ t.tone = .sounding ∧
      (s.sink.q = 0 ∨ s.tone = .idle → t.sink.playing = true) := by
  by_cases hsilent : s.sink.q = 0 ∨ s.tone = .idle
  · exact ⟨_, issue_of_done (exec_beepon_of_silent hsilent), ⟨rfl, rfl, rfl, rfl, rfl, rfl, rfl, rfl, rfl, rfl⟩, rfl, rfl,
      fun _ => rfl⟩
  · obtain ⟨hq, htone⟩ := not_or.1 hsilent
    exact ⟨_, issue_of_done (exec_beepon_of_inFlight hq htone), ⟨rfl, rfl, rfl, rfl, rfl, rfl, rfl, rfl, rfl, rfl⟩, rfl,
      tone_ne_idle.1 htone, fun h => absurd h hsilent⟩

/-- BEEPOFF leaves the tone Idle and the Sink empty and paused, whatever they were; no drain refills the Sink (R172, R173). -/
theorem issue_beepoff_silences (s : State) :
    ∃ t, issue .beepoff s = .next t ∧ s.SameMachine t ∧ t.devbuf = s.devbuf ∧ t.tone = .idle ∧ t.sink.q = 0 ∧
      t.sink.playing = false := by
  refine ⟨_, issue_of_done rfl, ⟨rfl, rfl, rfl, rfl, rfl, rfl, rfl, rfl, rfl, rfl⟩, rfl, rfl, ?_, rfl⟩
  exact Nat.le_zero.1 (sink_q_drains_le _ s.sink.pause.clear)

/-! ### GATE -/

theorem State.SameMachine.trans {s t u : State} (hst : s.SameMachine t) (htu : t.SameMachine u) : s.SameMachine u where
  pc := htu.pc.trans hst.pc
  x := htu.x.trans hst.x
  I := htu.I.trans hst.I
  sp := htu.sp.trans hst.sp
  stack := htu.stack.trans hst.stack
  mem := htu.mem.trans hst.mem
  fb := htu.fb.trans hst.fb
  key := htu.key.trans hst.key
  dt := htu.dt.trans hst.dt
  st := htu.st.trans hst.st

theorem zext8_eq_zero {v : Byte} : zext8 v = 0 ↔ v = 0 := by
  unfold zext8
  bv_omega

/-- GATE is one tone command, chosen by the sound timer and issued from a state that differs in no core state: GETST leaves only
its response, and meanwhile the Sink can only drain (R175). -/
theorem gate_eq_issue (s : State) :
    ∃ v, s.SameCore v ∧ v.sink.q ≤ s.sink.q ∧ gate s = issue (if s.st = 0 then .beepoff else .beepon) v := by
  refine ⟨environment (respond .ok (zext8 s.st) s), ⟨⟨rfl, rfl, rfl, rfl, rfl, rfl, rfl, rfl, rfl, rfl⟩, rfl, rfl⟩,
    sink_q_drains_le _ s.sink, ?_⟩
  have hgetst : issue .getst s = .next (environment (respond .ok (zext8 s.st) s)) := issue_eq .getst s
  simp only [gate, hgetst, andThen_next, environment_resp, respond_resp, gateCommand, zext8_eq_zero]

/-- Settles O39: the sound timer chooses between BEEPOFF and BEEPON; a Sink that was empty before GETST is empty after it. -/
theorem gateFollowsSoundTimer : Obligations.GateFollowsSoundTimer := by
  unfold Obligations.GateFollowsSoundTimer
  intro s
  obtain ⟨v, hv, hq, hgate⟩ := gate_eq_issue s
  rw [hgate]
  by_cases hst : s.st = 0
  · obtain ⟨t, ht, hmachine, hdevbuf, hsilent⟩ := issue_beepoff_silences v
    exact ⟨t, by rw [if_pos hst, ht], hv.machine.trans hmachine, hdevbuf.trans hv.devbuf, fun h => absurd hst h,
      fun _ => hsilent⟩
  · obtain ⟨t, ht, hmachine, hdevbuf, htone, hplaying⟩ := issue_beepon_sounds v
    have hstart (h : s.sink.q = 0 ∨ s.tone = .idle) : v.sink.q = 0 ∨ v.tone = .idle :=
      h.imp (fun h0 => Nat.le_zero.1 (hq.trans_eq h0)) hv.tone.trans
    exact ⟨t, by rw [if_neg hst, ht], hv.machine.trans hmachine, hdevbuf.trans hv.devbuf,
      fun _ => ⟨htone, fun h => hplaying (hstart h)⟩, fun h => absurd h hst⟩

end Sys2Proof.Machine
end

section
/-! PROOFS. The stack and the pointers (40_stack_and_pointers.md): PUSH and POP at each legal stack pointer (R100, R101) and over any
run of the two as a last-in-first-out store (R107); the tests of SETPC and SETI (R102, R103); the commands that read a register
(R104 to R106, R143, R144). -/

namespace Sys2Proof.Machine

/-! ### PUSH and POP at a legal stack pointer -/

theorem toNat_sp_add_one {sp : BitVec 5} (h : sp.toNat < 16) : (sp + 1).toNat = sp.toNat + 1 := by bv_omega

theorem toNat_sp_sub_one {sp : BitVec 5} (h : 0 < sp.toNat) : (sp - 1).toNat = sp.toNat - 1 := by bv_omega

theorem exec_push_of_full {s : State} (hsp : s.sp.toNat = stackDepth) (v : Word) :
    exec (.push v) s = raise .stackOverflow s :=
  if_pos (BitVec.eq_of_toNat_eq hsp)

theorem exec_push_of_lt {s : State} (hsp : s.sp.toNat < stackDepth) (v : Word) :
    exec (.push v) s = done { s.writeSlot ⟨s.sp.toNat, hsp⟩ v with sp := s.sp + 1 } := by
  have hne : s.sp ≠ 16 := fun h => hsp.ne (congrArg BitVec.toNat h)
  simp only [exec, execPush, if_neg hne, indexOf_of_lt hsp]

theorem exec_pop_of_empty {s : State} (hsp : s.sp.toNat = 0) : exec .pop s = raise .stackUnderflow s :=
  if_pos (BitVec.eq_of_toNat_eq hsp)

theorem exec_pop_of_pos {s : State} (hpos : 0 < s.sp.toNat) (hsp : s.sp.toNat - 1 < stackDepth) :
    exec .pop s = answer (s.readSlot ⟨s.sp.toNat - 1, hsp⟩) { s with sp := s.sp - 1 } := by
  have hne : s.sp ≠ 0 := by bv_omega
  simp only [exec, execPop, if_neg hne, toNat_sp_sub_one hpos, indexOf_of_lt hsp]

/-- Settles O4: the overflow check and the slot's own bound are the two cases of a legal stack pointer. -/
theorem pushStoresAtSpOrOverflows : Obligations.PushStoresAtSpOrOverflows := by
  unfold Obligations.PushStoresAtSpOrOverflows
  exact fun _ v => ⟨fun h => exec_push_of_full h v, fun h => ⟨exec_push_of_lt h v, toNat_sp_add_one h⟩⟩

/-- Settles O5: the slot answered is the one below the stack pointer, which is not written. -/
theorem popAnswersTopOrUnderflows : Obligations.PopAnswersTopOrUnderflows := by
  unfold Obligations.PopAnswersTopOrUnderflows
  exact fun _ => ⟨exec_pop_of_empty, fun hpos h => ⟨exec_pop_of_pos hpos h, toNat_sp_sub_one hpos⟩⟩

/-! ### The occupied slots -/

@[simp] theorem respond_unmatched (e : Status) (d : Word) (s : State) : (respond e d s).unmatched = s.unmatched := rfl

theorem length_unmatched {s : State} (hsp : s.sp.toNat ≤ stackDepth) : s.unmatched.length = s.sp.toNat := by
  simp [State.unmatched, hsp]

theorem unmatched_of_empty {s : State} (hsp : s.sp.toNat = 0) : s.unmatched = [] := by simp [State.unmatched, hsp]

/-- PUSH's write and step put the value on top of the occupied slots: the write is above all of them (R100). -/
theorem unmatched_writeSlot_sp {s : State} (hsp : s.sp.toNat < stackDepth) (v : Word) :
    State.unmatched { s.writeSlot ⟨s.sp.toNat, hsp⟩ v with sp := s.sp + 1 } = v :: s.unmatched := by
  simp only [State.unmatched, writeSlot_stack, toNat_sp_add_one hsp, Vector.toList_set]
  rw [List.take_add_one, List.take_set_of_le le_rfl]
  simp [hsp]

/-- The occupied slots are the one POP answers and, below it, those POP leaves (R101). -/
theorem unmatched_eq_readSlot_cons {s : State} (hpos : 0 < s.sp.toNat) (hsp : s.sp.toNat - 1 < stackDepth) :
    s.unmatched = s.readSlot ⟨s.sp.toNat - 1, hsp⟩ :: State.unmatched { s with sp := s.sp - 1 } := by
  have hslot : s.sp.toNat - 1 < s.stack.toList.length := by rwa [Vector.length_toList]
  have htake := List.take_append_getElem hslot
  rw [Nat.sub_add_cancel hpos] at htake
  simp only [State.unmatched, State.readSlot, toNat_sp_sub_one hpos, ← htake, List.reverse_concat, Vector.getElem_toList,
    Fin.getElem_fin]

/-! ### A run of PUSH and POP -/

/-- A stack command that is answered puts its response before those of the rest of the run. -/
theorem stackRun_cons {c : Option Word} {rest : List (Option Word)} {s t : State} {e : Status} {d : Word} {rs : List Response}
    (hexec : exec (stackInstr c) s = .next (respond e d t)) (hrest : stackRun rest (respond e d t) = some rs) :
    stackRun (c :: rest) s = some ({ status := e, rdata := d } :: rs) := by
  simp [stackRun, hexec, hrest]

/-- The occupied slots simulate a last-in-first-out list of depth 16: each command answers as the list does and keeps the
relation. -/
theorem stackRun_eq_lifoRun (cmds : List (Option Word)) {s : State} (hsp : s.sp.toNat ≤ stackDepth) :
    stackRun cmds s = some (lifoRun cmds s.unmatched) := by
  induction cmds generalizing s with
  | nil => rfl
  | cons c rest ih =>
    cases c with
    | some v =>
      by_cases hfull : s.sp.toNat = stackDepth
      · rw [lifoRun, if_pos ((length_unmatched hsp).trans hfull)]
        exact stackRun_cons (exec_push_of_full hfull v) (ih hsp)
      · have hlt : s.sp.toNat < stackDepth := lt_of_le_of_ne hsp hfull
        rw [lifoRun, if_neg (by rwa [length_unmatched hsp]), ← unmatched_writeSlot_sp hlt v]
        exact stackRun_cons (exec_push_of_lt hlt v) (ih ((toNat_sp_add_one hlt).trans_le hlt))
    | none =>
      by_cases hempty : s.sp.toNat = 0
      · rw [unmatched_of_empty hempty, lifoRun, ← unmatched_of_empty hempty]
        exact stackRun_cons (exec_pop_of_empty hempty) (ih hsp)
      · have hpos : 0 < s.sp.toNat := Nat.pos_of_ne_zero hempty
        have hslot : s.sp.toNat - 1 < stackDepth := Nat.sub_one_lt_of_le hpos hsp
        rw [unmatched_eq_readSlot_cons hpos hslot, lifoRun]
        exact stackRun_cons (exec_pop_of_pos hpos hslot) (ih ((toNat_sp_sub_one hpos).trans_le hslot.le))

/-- Settles O7, by induction on the run with the occupied slots as the simulation relation. -/
theorem stackIsLifoOfDepthSixteen : Obligations.StackIsLifoOfDepthSixteen := by
  unfold Obligations.StackIsLifoOfDepthSixteen
  exact fun cmds _ hsp => stackRun_eq_lifoRun cmds hsp

/-! ### SETPC and SETI -/

theorem exec_setpc_of_gt {v : Word} (hv : pcLimit < v.toNat) (s : State) :
    exec (.setpc v) s = raise .programCounterOutOfBounds s := if_pos hv

theorem exec_setpc_of_le {v : Word} (hv : v.toNat ≤ pcLimit) (s : State) :
    exec (.setpc v) s = done { s with pc := v } := if_neg (not_lt_of_ge hv)

theorem exec_seti_of_ge {v : Word} (hv : memSize ≤ v.toNat) (s : State) :
    exec (.seti v) s = raise .addressRegisterOutOfBounds s := if_pos hv

theorem exec_seti_of_lt {v : Word} (hv : v.toNat < memSize) (s : State) :
    exec (.seti v) s = done { s with I := v } := if_neg (not_le_of_gt hv)

/-- Settles O8: the test is of the operand against `pcLimit`, whatever `pc` holds. -/
theorem setpcTestsIncomingValue : Obligations.SetpcTestsIncomingValue := by
  unfold Obligations.SetpcTestsIncomingValue
  exact fun s _ => ⟨fun h => exec_setpc_of_gt h s, fun h => exec_setpc_of_le h s⟩

/-- Settles O9: the test is of the operand against `memSize`, whatever `I` holds. -/
theorem setiTestsIncomingValue : Obligations.SetiTestsIncomingValue := by
  unfold Obligations.SetiTestsIncomingValue
  exact fun s _ => ⟨fun h => exec_seti_of_ge h s, fun h => exec_seti_of_lt h s, rfl⟩

/-! ### The commands that read a register -/

theorem toNat_zext8 (v : Byte) : (zext8 v).toNat = v.toNat := BitVec.toNat_setWidth_of_le (by decide)

theorem toNat_zextSp (sp : BitVec 5) : (zextSp sp).toNat = sp.toNat := BitVec.toNat_setWidth_of_le (by decide)

/-- Settles O10: zero extension keeps a register's value, and the bounds on `I` and `sp` are the invariant's. -/
theorem getCommandsAnswerTheirRegister : Obligations.GetCommandsAnswerTheirRegister := by
  unfold Obligations.GetCommandsAnswerTheirRegister
  exact fun s => ⟨rfl, rfl, ⟨_, rfl, toNat_zextSp s.sp⟩, ⟨_, rfl, toNat_zext8 s.dt⟩, ⟨_, rfl, toNat_zext8 s.st⟩,
    fun hinv => ⟨hinv.I, hinv.sp⟩⟩

end Sys2Proof.Machine
end

section
/-! PROOFS. The registers, the pixels and the keys (41_indexed_access.md): what their commands answer at an invalid index (R73),
WRPIX's value check (R125), and the words of WRKEY the decoder refuses (R76, R127). -/

namespace Sys2Proof.Machine

/-! ### RDKEY and WRKEY -/

theorem exec_rdkey_of_ge {k : Word} (hk : numKeys ≤ k.toNat) (s : State) :
    exec (.rdkey k) s = raise .invalidKeyAccess s := by
  simp only [exec, execRdkey, indexOperand_of_ge hk]

theorem exec_wrkey_of_ge {k : Word} (hk : numKeys ≤ k.toNat) (b : Bool) (s : State) :
    exec (.wrkey k b) s = raise .invalidKeyAccess s := by
  simp only [exec, execWrkey, indexOperand_of_ge hk]

/-- Where the bits of `data` above the key's bit are clear, `data` is 0 or 1 (R74). -/
theorem eq_zero_or_one_of_maskData_xb {d : Word} (h : d &&& Format.xb.maskData = 0) : d = 0 ∨ d = 1 := by
  have hbit : (if d.getLsbD 0 then 1 else 0) = d := (bitZero_eq_and d).trans (and_not_eq_self h)
  split at hbit
  · exact .inr hbit.symm
  · exact .inl hbit.symm

/-- A WRKEY word whose `data` is no key state has a bit set that must be 0 (R76, R127). -/
theorem decode_wrkey_of_data {w : CmdWord} (hop : opField w = Mnemonic.wrkey.opcode) (h0 : dataField w ≠ 0)
    (h1 : dataField w ≠ 1) : decode w = .error .mustBeZeroSet := by
  refine decode_eq_mustBeZeroSet.2 ⟨.wrkey, hop, fun hclear => ?_⟩
  obtain ⟨-, -, hdata⟩ := (mustBeZero_clear_iff _ w).1 hclear
  exact (eq_zero_or_one_of_maskData_xb hdata).elim h0 h1

/-- A command that is not a WRKEY of a key's index keeps that key: its update does, and its response does (R127). -/
theorem exec_keeps_key {i : Instr} {s t : State} (h : exec i s = .next t) (k : Fin numKeys)
    (hi : ∀ n b, i = .wrkey n b → n.toNat ≠ k.val) : t.readKey k = s.readKey k := by
  obtain ⟨u, e, d, rfl, hu, -⟩ := exec_next h
  exact hu.readKey_eq k hi

/-- Settles O16: the index check decides between the two answers, a key is kept by every update but its own, and a WRKEY word
that decodes has a key state as `data`. -/
theorem keyCommandsLatchOneKey : Obligations.KeyCommandsLatchOneKey := by
  unfold Obligations.KeyCommandsLatchOneKey
  refine ⟨fun s k b => ⟨fun hk => ?_, fun hk => ?_⟩, fun i s t k h hi => exec_keeps_key h k hi,
    fun w => decode_wrkey_of_data, fun _ _ => ⟨rfl, rfl⟩⟩
  · exact ⟨exec_rdkey_of_ge hk s, exec_wrkey_of_ge hk b s⟩
  · exact ⟨exec_rdkey_of_lt hk s, exec_wrkey_of_lt hk b s⟩

/-! ### RDREG and WRREG -/

theorem exec_rdreg_of_ge {r : Word} (hr : numRegs ≤ r.toNat) (s : State) :
    exec (.rdreg r) s = raise .invalidRegisterAccess s := by
  simp only [exec, execRdreg, indexOperand_of_ge hr]

theorem exec_wrreg_of_ge {r : Word} (hr : numRegs ≤ r.toNat) (v : Byte) (s : State) :
    exec (.wrreg r v) s = raise .invalidRegisterAccess s := by
  simp only [exec, execWrreg, indexOperand_of_ge hr]

/-- Settles O13: the index check decides between the two answers, whatever the value. -/
theorem registerCommandsMoveOneRegister : Obligations.RegisterCommandsMoveOneRegister := by
  unfold Obligations.RegisterCommandsMoveOneRegister
  intro s r v
  refine ⟨fun hr => ?_, fun hr => ?_, rfl, rfl⟩
  · exact ⟨exec_rdreg_of_ge hr s, exec_wrreg_of_ge hr v s⟩
  · exact ⟨exec_rdreg_of_lt hr s, exec_wrreg_of_lt hr v s⟩

/-! ### RDPIX and WRPIX -/

theorem exec_rdpix_of_ge {p : Word} (hp : numPixels ≤ p.toNat) (s : State) :
    exec (.rdpix p) s = raise .invalidPixelAccess s := by
  simp only [exec, execRdpix, indexOperand_of_ge hp]

theorem exec_wrpix_of_ge {p : Word} (hp : numPixels ≤ p.toNat) (v : Byte) (s : State) :
    exec (.wrpix p v) s = raise .invalidPixelAccess s := by
  simp only [exec, execWrpix, indexOperand_of_ge hp]

theorem exec_wrpix_of_not_pixelValueOk {p : Word} (hp : p.toNat < numPixels) {v : Byte} (hv : ¬ pixelValueOk v = true)
    (s : State) : exec (.wrpix p v) s = raise .invalidPixelValue s := by
  simp only [exec, execWrpix, indexOperand_of_lt hp, if_neg hv]

/-- Settles O14: the index check decides between the two answers, and the pixel's values are those of the framebuffer's form. -/
theorem rdpixAnswersPixel : Obligations.RdpixAnswersPixel := by
  unfold Obligations.RdpixAnswersPixel
  exact fun s p =>
    ⟨fun hp => exec_rdpix_of_ge hp s, fun hp => exec_rdpix_of_lt hp s, fun hfb => pixelsWf_read hfb p.toNat, rfl⟩

/-- Settles O15: the index check comes before the value's (D12), and the write is the cell store's. -/
theorem wrpixChecksIndexThenValue : Obligations.WrpixChecksIndexThenValue := by
  unfold Obligations.WrpixChecksIndexThenValue
  intro s p v
  refine ⟨fun hp => exec_wrpix_of_ge hp v s, fun hp ⟨h0, h1⟩ => ?_, fun hp hv => ?_⟩
  · have hbad : ¬ pixelValueOk v = true := fun hok => (pixelValueOk_iff.1 hok).elim h0 h1
    exact exec_wrpix_of_not_pixelValueOk hp hbad s
  · exact ⟨_, exec_wrpix_of_lt hp (pixelValueOk_iff.2 hv) s, fun k => memory_read_write s.fb p.toNat k v⟩

end Sys2Proof.Machine
end

section
/-! PROOFS. The timers (42_timers.md): SETDT, SETST and TICK, each with its whole next state (R140 to R142), and the timers over any
run of commands that does not set them (R146). -/

namespace Sys2Proof.Machine

/-! ### One tick of one timer -/

theorem countDown_zero : countDown 0 = 0 := if_pos rfl

theorem toNat_countDown (v : Byte) : (countDown v).toNat = v.toNat - 1 := by
  unfold countDown
  split
  · next h => rw [h]; rfl
  · bv_omega

/-! ### SETDT, SETST and TICK -/

/-- Settles O18: the assignment has no check, and a timer that is 0 stays 0 at the TICK after it. -/
theorem setTimerCommandsSetOneTimer : Obligations.SetTimerCommandsSetOneTimer := by
  unfold Obligations.SetTimerCommandsSetOneTimer
  exact fun _ _ => ⟨rfl, rfl, ⟨_, rfl, countDown_zero⟩, ⟨_, rfl, countDown_zero⟩, rfl, rfl⟩

/-- Settles O19: both timers count down, each on its own value. -/
theorem tickSaturatesBothTimers : Obligations.TickSaturatesBothTimers := by
  unfold Obligations.TickSaturatesBothTimers
  exact fun s => ⟨_, _, rfl, toNat_countDown s.dt, toNat_countDown s.st, rfl⟩

/-! ### The timers over a run of commands -/

/-- What an update leaves of each timer, unless its command sets that timer: TICK counts it down, any other command keeps it. -/
theorem Update.timers_eq {i : Instr} {s u : State} (h : Update i s u) :
    ((∀ v, i ≠ .setdt v) → u.dt = if i = .tick then countDown s.dt else s.dt) ∧
    ((∀ v, i ≠ .setst v) → u.st = if i = .tick then countDown s.st else s.st) := by
  cases h with
  | same i s hi =>
    have htick : i ≠ .tick := by
      rintro rfl
      simp [Instr.mnemonic] at hi
    simp only [if_neg htick, implies_true, and_self]
  | setdt v => exact ⟨fun hset => absurd rfl (hset v), fun _ => rfl⟩
  | setst v => exact ⟨fun _ => rfl, fun hset => absurd rfl (hset v)⟩
  | _ => exact ⟨fun _ => rfl, fun _ => rfl⟩

/-- A timer of the core state that each update of the run counts down at a TICK and keeps otherwise falls by the number of
TICKs: neither a response nor a move of the environment changes core state. -/
theorem issueAll_timer_falls {timer : State → Byte} (hcore : ∀ {s t : State}, s.SameCore t → timer t = timer s)
    {cmds : List Instr}
    (hcmds : ∀ i ∈ cmds, ∀ {s u : State}, Update i s u → timer u = if i = .tick then countDown (timer s) else timer s)
    {s t : State} (h : issueAll cmds s = .next t) : (timer t).toNat = (timer s).toNat - cmds.count .tick := by
  induction cmds generalizing s with
  | nil =>
    cases h
    rfl
  | cons i cmds ih =>
    obtain ⟨v, hv, ht⟩ := issueAll_cons_eq_next.1 h
    obtain ⟨u, e, d, rfl, hu, -⟩ := exec_next hv
    have hrest : (timer t).toNat = (timer u).toNat - cmds.count .tick := by
      rw [ih (fun j hj => hcmds j (List.mem_cons_of_mem i hj)) ht, hcore (environment_sameCore _),
        hcore (respond_sameCore e d u)]
    rw [hrest, hcmds i List.mem_cons_self hu]
    by_cases htick : i = .tick
    · rw [if_pos htick, toNat_countDown, htick, List.count_cons_self, Nat.sub_sub, Nat.add_comm]
    · rw [if_neg htick, List.count_cons_of_ne htick]

/-- Settles O20, by induction on the run, for each timer from what one update leaves of it. -/
theorem timersFallByTheNumberOfTicks : Obligations.TimersFallByTheNumberOfTicks := by
  unfold Obligations.TimersFallByTheNumberOfTicks
  intro cmds s t h
  refine ⟨fun hdt => ?_, fun hst => ?_⟩
  · refine issueAll_timer_falls (timer := State.dt) (fun hs => hs.machine.dt) (fun i hi _ _ hu => ?_) h
    exact hu.timers_eq.1 fun v hv => hdt v (hv ▸ hi)
  · refine issueAll_timer_falls (timer := State.st) (fun hs => hs.machine.st) (fun i hi _ _ hu => ?_) h
    exact hu.timers_eq.2 fun v hv => hst v (hv ▸ hi)

end Sys2Proof.Machine
end

section
/-! PROOFS. The renderer (43_renderer.md): RENDER's image at every device pixel (R150, R153, R155), LIVE's one bit (R152), what
neither of them writes (R154), and the Host's presentation, which asks LIVE before each RENDER (R234). -/

namespace Sys2Proof.Machine

/-! ### RENDER's image -/

/-- A row-major index has one row. -/
theorem rowMajor_div {w X : Nat} (hX : X < w) (Y : Nat) : (Y * w + X) / w = Y := by
  rw [Nat.mul_comm, Nat.mul_add_div (Nat.zero_lt_of_lt hX), Nat.div_eq_of_lt hX, Nat.add_zero]

/-- The row-major index of a pixel of a `w` by `h` buffer is inside it. -/
theorem rowMajor_lt {w h X Y : Nat} (hX : X < w) (hY : Y < h) : Y * w + X < w * h :=
  calc Y * w + X < Y * w + w := Nat.add_lt_add_left hX _
    _ = w * (Y + 1) := by rw [Nat.mul_comm, Nat.mul_add_one]
    _ ≤ w * h := Nat.mul_le_mul_left w hY

/-- A write of R150's loops to the device pixel `(X, Y)` is of the block of the logical pixel `(X / S, Y / S)`: its index has one
row and one column, and each of them is in one block. -/
theorem eq_div_of_block_index {w S X Y x y dx dy : Nat} (hX : X < w * S) (hx : x < w) (hdx : dx < S) (hdy : dy < S)
    (h : (y * S + dy) * (w * S) + (x * S + dx) = Y * (w * S) + X) : y = Y / S ∧ x = X / S := by
  have hcol : x * S + dx < w * S := (rowMajor_lt hdx hx).trans_eq (Nat.mul_comm S w)
  have hrow : y * S + dy = Y := by rw [← rowMajor_div hcol (y * S + dy), h, rowMajor_div hX]
  rw [hrow] at h
  have hcolumn : x * S + dx = X := Nat.add_left_cancel h
  rw [← hrow, ← hcolumn, rowMajor_div hdy, rowMajor_div hdx]
  exact ⟨rfl, rfl⟩

/-- Every device pixel is written by the block of its logical pixel, and by no other block. -/
theorem applyWrites_blockWrites_getElem {α : Type} {n w h S X Y : Nat} (buf : Vector α n) (colour : Nat → α) (hX : X < w * S)
    (hY : Y < h * S) (hn : Y * (w * S) + X < n) :
    (applyWrites buf (blockWrites w h S colour))[Y * (w * S) + X] = colour (Y / S * w + X / S) := by
  have hS : 0 < S := Nat.pos_of_mul_pos_left (Nat.zero_lt_of_lt hX)
  apply applyWrites_getElem_of_agree
  · refine mem_blockWrites.2 ⟨Y / S, Nat.div_lt_of_lt_mul (by rwa [Nat.mul_comm]), X / S,
      Nat.div_lt_of_lt_mul (by rwa [Nat.mul_comm]), Y % S, Nat.mod_lt Y hS, X % S, Nat.mod_lt X hS, ?_⟩
    rw [Nat.div_add_mod', Nat.div_add_mod']
  · intro c hc hindex
    obtain ⟨y, -, x, hx, dy, hdy, dx, hdx, rfl⟩ := mem_blockWrites.1 hc
    obtain ⟨rfl, rfl⟩ := eq_div_of_block_index hX hx hdx hdy hindex
    rfl

/-- The nearest-neighbour replication law (R153). -/
theorem scaled_getElem? (s : State) {X Y : Nat} (hX : X < devWidth) (hY : Y < devHeight) :
    s.scaled[Y * devWidth + X]? = some (colourOf Config.fgColor Config.bgColor
      (Memory.read s.fb (Y / Config.scale * fbWidth + X / Config.scale))) := by
  rw [Vector.getElem?_eq_getElem (rowMajor_lt hX hY)]
  exact congrArg some (applyWrites_blockWrites_getElem s.devbuf _ hX hY (rowMajor_lt hX hY))

/-! ### RENDER and LIVE, executed -/

theorem exec_render (s : State) :
    exec .render s = .next (respond (renderStatus s.surface.accepts) 0 { s with devbuf := s.scaled }.submit) := rfl

theorem exec_live (s : State) : exec .live s = answer (boolData (s.surface.isOpen && !s.surface.quit)) s := rfl

/-- RENDER's response is the Surface's answer to the submission (R150). -/
theorem respond_renderStatus (accepts : Bool) (s : State) :
    respond (renderStatus accepts) 0 s = { s with resp := if accepts then okResp 0 else failResp .presentationFailed } := by
  cases accepts <;> rfl

/-- Settles O21: the image is the one R150's loops write, and every device pixel belongs to the block of one logical pixel. -/
theorem renderReplicatesEachPixel : Obligations.RenderReplicatesEachPixel := by
  unfold Obligations.RenderReplicatesEachPixel
  refine fun s => ⟨s.scaled, ?_, fun _ _ hX hY => scaled_getElem? s hX hY⟩
  rw [exec_render, respond_renderStatus]
  rfl

/-- Settles O22: the bit LIVE answers is 1 in one of the four cases of the Surface's two answers. -/
theorem liveAnswersOpenAndNoQuit : Obligations.LiveAnswersOpenAndNoQuit := by
  unfold Obligations.LiveAnswersOpenAndNoQuit
  intro s
  rw [exec_live]
  cases s.surface.isOpen <;> cases s.surface.quit <;> rfl

/-- RENDER's update is outside the machine state (R154). -/
theorem submit_scaled_sameMachine (s : State) : s.SameMachine { s with devbuf := s.scaled }.submit :=
  ⟨rfl, rfl, rfl, rfl, rfl, rfl, rfl, rfl, rfl, rfl⟩

/-- Settles O23: RENDER stores its image, submits it and responds; LIVE responds. -/
theorem rendererNeverChangesMachineState : Obligations.RendererNeverChangesMachineState := by
  unfold Obligations.RendererNeverChangesMachineState
  refine fun s => ⟨⟨_, exec_render s, ?_, rfl, rfl, rfl⟩, ⟨_, exec_live s, respond_sameCore _ _ s, rfl⟩⟩
  exact (submit_scaled_sameMachine s).trans (respond_sameCore _ 0 _).machine

/-! ### The Host's presentation -/

theorem State.SameCore.trans {s t u : State} (hst : s.SameCore t) (htu : t.SameCore u) : s.SameCore u where
  machine := hst.machine.trans htu.machine
  tone := htu.tone.trans hst.tone
  devbuf := htu.devbuf.trans hst.devbuf

/-- The Host reads from the response the bit LIVE answered (R152). -/
theorem saysLive_boolData (b : Bool) : saysLive (okResp (boolData b)) = b := by cases b <;> rfl

/-- LIVE, issued, changes no core state and submits nothing, and the Host reads from its response open and no quit (R152). -/
theorem issue_live_answers (s : State) :
    ∃ t, issue .live s = .next t ∧ s.SameCore t ∧ t.submitted = s.submitted ∧
      saysLive t.resp = (s.surface.isOpen && !s.surface.quit) :=
  ⟨_, issue_eq_next.2 ⟨_, exec_live s, rfl⟩, (respond_sameCore _ _ s).trans (environment_sameCore _), rfl,
    saysLive_boolData _⟩

/-- RENDER, issued, leaves the machine state and the tone, and submits the device buffer, whatever the Surface answers
(R150, R154). -/
theorem issue_render_submits (s : State) :
    ∃ u b, issue .render s = .next u ∧ s.SameMachine u ∧ u.tone = s.tone ∧ u.submitted = some b ∧ b.image = u.devbuf := by
  refine ⟨_, _, issue_eq_next.2 ⟨_, exec_render s, rfl⟩, ?_, rfl, rfl, rfl⟩
  have hrespond := (respond_sameCore (renderStatus s.surface.accepts) 0 { s with devbuf := s.scaled }.submit).machine
  exact ((submit_scaled_sameMachine s).trans hrespond).trans (environment_sameCore _).machine

/-- Settles O49: what LIVE answers is the Surface's open and no quit, and it decides whether RENDER is issued after it. -/
theorem hostRendersWhileLiveAnswersOne : Obligations.HostRendersWhileLiveAnswersOne := by
  unfold Obligations.HostRendersWhileLiveAnswersOne
  intro s
  obtain ⟨t, hlive, hcore, hsubmitted, hsays⟩ := issue_live_answers s
  refine ⟨fun ⟨hopen, hquit⟩ => ?_, fun hclosed => ?_, rfl⟩
  · obtain ⟨u, b, hrender, hmachine, htone, hsubmit⟩ := issue_render_submits t
    have hyes : saysLive t.resp = true := by simp [hsays, hopen, hquit]
    exact ⟨u, b, by simp [present, hlive, hyes, hrender], hcore.machine.trans hmachine, htone.trans hcore.tone, hsubmit⟩
  · have hno : saysLive t.resp = false := by
      rcases hclosed with h | h <;> simp [hsays, h]
    exact ⟨t, by simp [present, hlive, hno], hcore, hsubmitted⟩

end Sys2Proof.Machine
end

section
/-! PROOFS. The tone gate (44_tone_gate.md): the Sink's drains (R173), BEEPON and BEEPOFF with their whole next states (R171, R172),
what the two read and write (R177), and the gate's invariant over every step and drain (R176). -/

namespace Sys2Proof.Machine

/-! ### The Sink's drains -/

theorem sink_q_eq_zero {k : Sink} : k.q = 0 ↔ k.queue = [] := List.length_eq_zero_iff

theorem sink_q_drain_le (k : Sink) : k.drain.q ≤ k.q := by
  rw [sink_q_drain]
  split
  · exact Nat.sub_le k.q 1
  · exact le_rfl

theorem sink_q_drain_of_playing {k : Sink} (hplaying : k.playing = true) (hq : 0 < k.q) : k.drain.q + 1 = k.q := by
  rw [sink_q_drain, if_pos hplaying]
  exact Nat.sub_add_cancel hq

/-- Where the Sink is paused or empty it has no step to take (R173). -/
theorem sink_drain_eq_self {k : Sink} (h : k.playing = false ∨ k.q = 0) : k.drain = k := by
  obtain ⟨queue, playing⟩ := k
  rcases h with rfl | hempty
  · rfl
  · obtain rfl : queue = [] := sink_q_eq_zero.1 hempty
    cases playing <;> rfl

/-- The `n` tries of the environment are `n` steps of the Sink (R173). -/
theorem sink_drains_eq_iterate (n : Nat) (k : Sink) : k.drains n = Sink.drain^[n] k := by
  induction n generalizing k with
  | zero => exact sink_drains_zero k
  | succ n ih => rw [sink_drains_succ, ih, Function.iterate_succ_apply]

/-- Settles O29: one drain by its two cases, and the environment's tries as that many drains. -/
theorem sinkMovesOnlyByDrains : Obligations.SinkMovesOnlyByDrains := by
  unfold Obligations.SinkMovesOnlyByDrains
  exact ⟨fun k => ⟨sink_q_drain_of_playing, sink_drain_eq_self, rfl⟩, fun s => ⟨_, sink_drains_eq_iterate _ s.sink⟩⟩

/-! ### The invariant, kept by every step and every drain -/

/-- The tone gate's invariant survives any loss of queued waveforms, as long as the tone is kept. -/
theorem State.ToneGate.of_q_le {s t : State} (h : s.ToneGate) (htone : t.tone = s.tone) (hq : t.sink.q ≤ s.sink.q) :
    t.ToneGate where
  sounding hpos := htone.trans (h.sounding (lt_of_lt_of_le hpos hq))
  atMostOne := hq.trans h.atMostOne

theorem exec_toneGate {i : Instr} {s t : State} (hs : s.ToneGate) (h : exec i s = .next t) : t.ToneGate := by
  obtain ⟨u, e, d, rfl, hu, -⟩ := exec_next h
  exact (hu.toneGate hs).of_eq rfl rfl

theorem runWord_toneGate {w : CmdWord} {s t : State} (hs : s.ToneGate) (h : runWord w s = .next t) : t.ToneGate := by
  cases hw : decode w with
  | error e =>
    rw [runWord_of_error hw] at h
    cases h
    exact hs.of_eq rfl rfl
  | ok i =>
    rw [runWord_of_ok hw] at h
    exact exec_toneGate hs h

theorem step_toneGate {s t : State} (hs : s.ToneGate) (h : step s = .next t) : t.ToneGate := by
  rcases step_eq_next.1 h with ⟨-, rfl⟩ | ⟨w, rest, u, -, hu, rfl⟩
  · exact environment_toneGate hs
  · have htaken : { s with port := rest }.ToneGate := hs.of_eq rfl rfl
    exact environment_toneGate (runWord_toneGate htaken hu)

/-- Settles O28: BEEPON starts a tone only where nothing is queued, BEEPOFF and the drains only lower the count, and no other
command touches the tone or the Sink. -/
theorem toneGateNeverStacksTones : Obligations.ToneGateNeverStacksTones := by
  unfold Obligations.ToneGateNeverStacksTones
  exact ⟨reset_toneGate, fun _ _ => step_toneGate, fun s hs => hs.of_q_le rfl (sink_q_drain_le s.sink)⟩

/-! ### BEEPON and BEEPOFF, executed -/

/-- What BEEPON and BEEPOFF leave in the tone and the Sink is the same from any two states that agree in them; nothing else but
the response is written (R177). -/
theorem exec_toneCommand_agree {i : Instr} (hi : i = .beepon ∨ i = .beepoff) {s s' : State} (htone : s'.tone = s.tone)
    (hsink : s'.sink = s.sink) :
    ∃ tn k, exec i s = .next { s with tone := tn, sink := k, resp := okResp 0 } ∧
      exec i s' = .next { s' with tone := tn, sink := k, resp := okResp 0 } := by
  rcases hi with rfl | rfl
  · by_cases hsilent : s.sink.q = 0 ∨ s.tone = .idle
    · have hsilent' : s'.sink.q = 0 ∨ s'.tone = .idle := by rwa [hsink, htone]
      refine ⟨.sounding, (s.sink.enqueue Config.tone).resume, exec_beepon_of_silent hsilent, ?_⟩
      rw [exec_beepon_of_silent hsilent', ← hsink]
      rfl
    · obtain ⟨hq, hidle⟩ := not_or.1 hsilent
      refine ⟨s.tone, s.sink, exec_beepon_of_inFlight hq hidle, ?_⟩
      rw [← hsink] at hq ⊢
      rw [← htone] at hidle ⊢
      exact exec_beepon_of_inFlight hq hidle
  · refine ⟨.idle, s.sink.pause.clear, rfl, ?_⟩
    rw [← hsink]
    rfl

/-- Settles O27: both commands write the tone, the Sink and the response alone, and the same from states that agree in the tone
and the Sink. -/
theorem toneCommandsTouchOnlyToneAndSink : Obligations.ToneCommandsTouchOnlyToneAndSink := by
  unfold Obligations.ToneCommandsTouchOnlyToneAndSink
  intro i hi s
  refine ⟨?_, fun s' t t' htone hsink ht ht' => ?_⟩
  · obtain ⟨_, _, hexec⟩ := exec_toneCommand_writes hi s
    exact ⟨_, hexec, ⟨rfl, rfl, rfl, rfl, rfl, rfl, rfl, rfl, rfl, rfl⟩, rfl, rfl⟩
  · obtain ⟨_, _, hexec, hexec'⟩ := exec_toneCommand_agree hi htone hsink
    cases ht.symm.trans hexec
    cases ht'.symm.trans hexec'
    exact ⟨rfl, rfl, rfl⟩

/-- After a BEEPON a tone is in flight, the one it started or the one it found (R171). -/
theorem exec_beepon_inFlight_after (s : State) :
    ∃ u, exec .beepon s = done u ∧ u.sink.q ≠ 0 ∧ u.tone = .sounding := by
  by_cases hsilent : s.sink.q = 0 ∨ s.tone = .idle
  · exact ⟨s.startTone, exec_beepon_of_silent hsilent, by simp [State.startTone], rfl⟩
  · obtain ⟨hq, hidle⟩ := not_or.1 hsilent
    exact ⟨s, exec_beepon_of_inFlight hq hidle, hq, tone_ne_idle.1 hidle⟩

/-- Settles O25: BEEPON starts a tone or finds one in flight; either way the next BEEPON finds one, and answers the same. -/
theorem beeponStartsAtMostOneTone : Obligations.BeeponStartsAtMostOneTone := by
  unfold Obligations.BeeponStartsAtMostOneTone
  refine fun s => ⟨fun hsilent => ?_, fun ⟨hqueue, hsounding⟩ => ?_, ?_⟩
  · exact exec_beepon_of_silent (hsilent.imp_left sink_q_eq_zero.2)
  · exact exec_beepon_of_inFlight (mt sink_q_eq_zero.1 hqueue) (tone_ne_idle.2 hsounding)
  · obtain ⟨u, hexec, hq, hsounding⟩ := exec_beepon_inFlight_after s
    have hagain : exec .beepon (respond .ok 0 u) = done (respond .ok 0 u) :=
      exec_beepon_of_inFlight hq (tone_ne_idle.2 hsounding)
    exact ⟨respond .ok 0 u, hexec, hsounding, hagain⟩

/-- Settles O26: BEEPOFF has one path, and the Sink it leaves is empty, so the BEEPON after it starts a tone. -/
theorem beepoffSilencesAlways : Obligations.BeepoffSilencesAlways := by
  unfold Obligations.BeepoffSilencesAlways
  exact fun s => ⟨_, rfl, rfl, exec_beepon_of_silent (.inl rfl), rfl⟩

end Sys2Proof.Machine
end

section
/-! PROOFS. Errors (60_exceptions.md): the status each command answers with (R201, R206), what a failure leaves (R202), the commands
that never fail (R203), and what an Engine's turn cannot touch (R211). -/

namespace Sys2Proof.Machine

/-! ### The status of a command, as a function of its operands and the state -/

/-- The status `e` where its cause holds, else OK (R201). -/
def failIf (cause : Prop) [Decidable cause] (e : Status) : Status := if cause then e else .ok

theorem failIf_eq_iff {cause : Prop} [Decidable cause] {e f : Status} (hf : f ≠ .ok) :
    failIf cause e = f ↔ cause ∧ e = f := by
  unfold failIf
  split
  · next h => simp [h]
  · next h => simp [h, hf.symm]

/-- The status a command answers with, read off the status table (R201); of WRPIX's two causes the index comes first (R206, D12).
`exec_answersStatus` ties it to the commands' meanings. -/
def statusOf (i : Instr) (s : State) : Status :=
  match i with
  | .push _ => failIf (s.sp.toNat = 16) .stackOverflow
  | .pop => failIf (s.sp.toNat = 0) .stackUnderflow
  | .setpc v => failIf (4094 < v.toNat) .programCounterOutOfBounds
  | .seti v => failIf (4096 ≤ v.toNat) .addressRegisterOutOfBounds
  | .rdmem a | .wrmem a _ => failIf (4096 ≤ a.toNat) .invalidMemoryAccess
  | .rdreg r | .wrreg r _ => failIf (16 ≤ r.toNat) .invalidRegisterAccess
  | .rdpix p => failIf (2048 ≤ p.toNat) .invalidPixelAccess
  | .wrpix p v =>
    if 2048 ≤ p.toNat then .invalidPixelAccess else failIf (¬ pixelValueOk v = true) .invalidPixelValue
  | .rdkey k | .wrkey k _ => failIf (16 ≤ k.toNat) .invalidKeyAccess
  | .render => failIf (s.surface.accepts = false) .presentationFailed
  | .setdt _ | .setst _ | .tick | .live | .beepon | .beepoff | .getpc | .geti | .getsp | .getdt | .getst => .ok

theorem statusOf_wrpix_of_ge {p : Word} (hp : numPixels ≤ p.toNat) (v : Byte) (s : State) :
    statusOf (.wrpix p v) s = .invalidPixelAccess := if_pos hp

theorem statusOf_wrpix_of_lt {p : Word} (hp : p.toNat < numPixels) (v : Byte) (s : State) :
    statusOf (.wrpix p v) s = failIf (¬ pixelValueOk v = true) .invalidPixelValue := if_neg (not_le_of_gt hp)

/-! ### Every command answers with that status -/

/-- A result answers with the status `e`: its next state, if it has one, carries a response of that status. -/
def AnswersStatus (r : Result) (e : Status) : Prop := ∀ t, r = .next t → ∃ d, t.resp = some { status := e, rdata := d }

theorem answersStatus_respond (e : Status) (d : Word) (s : State) : AnswersStatus (.next (respond e d s)) e := by
  rintro _ ⟨⟩
  exact ⟨d, rfl⟩

theorem answersStatus_raise (e : Status) (s : State) : AnswersStatus (raise e s) e := answersStatus_respond e 0 s

theorem answersStatus_done (s : State) : AnswersStatus (done s) .ok := answersStatus_respond .ok 0 s

theorem answersStatus_answer (d : Word) (s : State) : AnswersStatus (answer d s) .ok := answersStatus_respond .ok d s

theorem answersStatus_failIf {cause : Prop} [Decidable cause] {r : Result} {e : Status} (hfail : cause → AnswersStatus r e)
    (hok : ¬ cause → AnswersStatus r .ok) : AnswersStatus r (failIf cause e) := by
  unfold failIf
  split
  · next h => exact hfail h
  · next h => exact hok h

/-- A PUSH that does not overflow is done, or it stops at a stack pointer above 16 and answers nothing. -/
theorem exec_push_answersStatus (v : Word) (s : State) : AnswersStatus (exec (.push v) s) (statusOf (.push v) s) := by
  refine answersStatus_failIf (fun hfull => ?_) (fun hfull => ?_)
  · exact exec_push_of_full hfull v ▸ answersStatus_raise _ s
  · rcases Nat.lt_or_gt_of_ne hfull with hlt | hgt
    · exact exec_push_of_lt hlt v ▸ answersStatus_done _
    · intro t ht
      cases (execPush_faults_of_sp_gt hgt v).symm.trans ht

/-- A POP that does not underflow answers a slot, or it stops at a stack pointer above 16 and answers nothing. -/
theorem exec_pop_answersStatus (s : State) : AnswersStatus (exec .pop s) (statusOf .pop s) := by
  refine answersStatus_failIf (fun hempty => ?_) (fun hempty => ?_)
  · exact exec_pop_of_empty hempty ▸ answersStatus_raise _ s
  · by_cases hgt : 16 < s.sp.toNat
    · intro t ht
      cases (execPop_faults_of_sp_gt hgt).symm.trans ht
    · have hpos : 0 < s.sp.toNat := Nat.pos_of_ne_zero hempty
      exact exec_pop_of_pos hpos (Nat.sub_one_lt_of_le hpos (not_lt.1 hgt)) ▸ answersStatus_answer _ _

/-- WRPIX checks its index, and at a valid index its value (D12). -/
theorem exec_wrpix_answersStatus (p : Word) (v : Byte) (s : State) :
    AnswersStatus (exec (.wrpix p v) s) (statusOf (.wrpix p v) s) := by
  rcases Nat.lt_or_ge p.toNat numPixels with hlt | hge
  · rw [statusOf_wrpix_of_lt hlt]
    exact answersStatus_failIf (fun hv => exec_wrpix_of_not_pixelValueOk hlt hv s ▸ answersStatus_raise _ s)
      (fun hv => exec_wrpix_of_lt hlt (not_not.1 hv) s ▸ answersStatus_done _)
  · rw [exec_wrpix_of_ge hge, statusOf_wrpix_of_ge hge]
    exact answersStatus_raise _ s

theorem exec_toneCommand_answersStatus {i : Instr} (hi : i = .beepon ∨ i = .beepoff) (s : State) :
    AnswersStatus (exec i s) .ok := by
  obtain ⟨tn, k, hexec⟩ := exec_toneCommand_writes hi s
  exact hexec ▸ answersStatus_done { s with tone := tn, sink := k }

theorem renderStatus_eq_failIf (accepts : Bool) : renderStatus accepts = failIf (accepts = false) .presentationFailed := by
  cases accepts <;> rfl

/-- The status function is the commands' own: each check of a command is the cause of its status. -/
theorem exec_answersStatus (i : Instr) (s : State) : AnswersStatus (exec i s) (statusOf i s) := by
  cases i with
  | push v => exact exec_push_answersStatus v s
  | pop => exact exec_pop_answersStatus s
  | setpc v =>
    exact answersStatus_failIf (fun hv => exec_setpc_of_gt hv s ▸ answersStatus_raise _ s)
      (fun hv => exec_setpc_of_le (not_lt.1 hv) s ▸ answersStatus_done _)
  | seti v =>
    exact answersStatus_failIf (fun hv => exec_seti_of_ge hv s ▸ answersStatus_raise _ s)
      (fun hv => exec_seti_of_lt (not_le.1 hv) s ▸ answersStatus_done _)
  | rdmem a =>
    exact answersStatus_failIf (fun ha => exec_rdmem_of_ge ha s ▸ answersStatus_raise _ s)
      (fun ha => exec_rdmem_of_lt (not_le.1 ha) s ▸ answersStatus_answer _ s)
  | wrmem a v =>
    exact answersStatus_failIf (fun ha => exec_wrmem_of_ge ha v s ▸ answersStatus_raise _ s)
      (fun ha => exec_wrmem_of_lt (not_le.1 ha) v s ▸ answersStatus_done _)
  | rdreg r =>
    exact answersStatus_failIf (fun hr => exec_rdreg_of_ge hr s ▸ answersStatus_raise _ s)
      (fun hr => exec_rdreg_of_lt (not_le.1 hr) s ▸ answersStatus_answer _ s)
  | wrreg r v =>
    exact answersStatus_failIf (fun hr => exec_wrreg_of_ge hr v s ▸ answersStatus_raise _ s)
      (fun hr => exec_wrreg_of_lt (not_le.1 hr) v s ▸ answersStatus_done _)
  | rdpix p =>
    exact answersStatus_failIf (fun hp => exec_rdpix_of_ge hp s ▸ answersStatus_raise _ s)
      (fun hp => exec_rdpix_of_lt (not_le.1 hp) s ▸ answersStatus_answer _ s)
  | wrpix p v => exact exec_wrpix_answersStatus p v s
  | rdkey k =>
    exact answersStatus_failIf (fun hk => exec_rdkey_of_ge hk s ▸ answersStatus_raise _ s)
      (fun hk => exec_rdkey_of_lt (not_le.1 hk) s ▸ answersStatus_answer _ s)
  | wrkey k b =>
    exact answersStatus_failIf (fun hk => exec_wrkey_of_ge hk b s ▸ answersStatus_raise _ s)
      (fun hk => exec_wrkey_of_lt (not_le.1 hk) b s ▸ answersStatus_done _)
  | render =>
    rw [exec_render, renderStatus_eq_failIf]
    exact answersStatus_respond _ 0 _
  | beepon => exact exec_toneCommand_answersStatus (.inl rfl) s
  | beepoff => exact exec_toneCommand_answersStatus (.inr rfl) s
  | setdt _ | setst _ | tick | live | getpc | geti | getsp | getdt | getst => exact answersStatus_respond .ok _ _

theorem exec_status_eq {i : Instr} {s t : State} {r : Response} (h : exec i s = .next t) (hr : t.resp = some r) :
    r.status = statusOf i s := by
  obtain ⟨d, hd⟩ := exec_answersStatus i s t h
  rw [Option.some.inj (hr.symm.trans hd)]

/-! ### The causes -/

/-- No reserved code has a name (R201). -/
theorem status_code_lt (e : Status) : e.code.toNat < 12 := by cases e <;> decide

/-- Settles O32: an illegal word has its one status, and a command's status is the one of `statusOf`, whose failing branches are
the causes of the table. -/
theorem eachFailureHasItsCause : Obligations.EachFailureHasItsCause := by
  unfold Obligations.EachFailureHasItsCause
  refine ⟨⟨rfl, rfl, rfl, rfl, rfl, rfl, rfl, rfl, rfl, rfl, rfl, rfl⟩, fun _ => ⟨rfl, rfl⟩,
    fun w s t r h hr => ⟨status_code_lt r.status, ?_⟩⟩
  cases hw : decode w with
  | error e =>
    rw [runWord_of_error hw] at h
    cases h
    cases hr
    simp
  | ok i =>
    rw [runWord_of_ok hw] at h
    rw [exec_status_eq h hr]
    cases i with
    | wrpix p v =>
      rcases Nat.lt_or_ge p.toNat 2048 with hlt | hge
      · simp [statusOf_wrpix_of_lt hlt, hlt, failIf_eq_iff, pixelValueOk_iff]
      · simp [statusOf_wrpix_of_ge hge, hge]
    | push _ | pop | setpc _ | seti _ | rdmem _ | wrmem _ _ | rdreg _ | wrreg _ _ | rdpix _ | rdkey _ | wrkey _ _ | render =>
      simp [statusOf, failIf_eq_iff]
    | setdt _ | setst _ | tick | live | beepon | beepoff | getpc | geti | getsp | getdt | getst => simp [statusOf]

/-- The cause of PresentationFailed is RENDER's alone (R201). -/
theorem eq_render_of_presentationFailed {i : Instr} {s : State} (h : statusOf i s = .presentationFailed) : i = .render := by
  cases i with
  | render => rfl
  | wrpix p v =>
    rcases Nat.lt_or_ge p.toNat numPixels with hlt | hge
    · simp [statusOf_wrpix_of_lt hlt, failIf_eq_iff] at h
    · simp [statusOf_wrpix_of_ge hge] at h
  | _ => simp [statusOf, failIf_eq_iff] at h

/-! ### What a failure leaves -/

/-- A command that fails answers read data 0 and has made no update, but for the image of a RENDER that fails (R202, D18). -/
theorem exec_failure {i : Instr} {s t : State} {e : Status} {d : Word} (h : exec i s = .next t)
    (hr : t.resp = some { status := e, rdata := d }) (he : e ≠ .ok) :
    d = 0 ∧ (e ≠ .presentationFailed → t = { s with resp := failResp e }) ∧
      (e = .presentationFailed → i = .render) := by
  obtain ⟨u, e', d', rfl, -, hfail⟩ := exec_next h
  have hrender : e = .presentationFailed → i = .render := fun hp =>
    eq_render_of_presentationFailed ((exec_status_eq h hr).symm.trans hp)
  cases hr
  obtain ⟨rfl, hsame⟩ := hfail he
  exact ⟨rfl, fun hp => by rw [hsame hp]; rfl, hrender⟩

/-- Settles O31: a failure is a bare response, but for PresentationFailed, and a RENDER writes no machine state, tone or Sink. -/
theorem failureChangesNothing : Obligations.FailureChangesNothing := by
  unfold Obligations.FailureChangesNothing
  intro w s t e d h hr he
  cases hw : decode w with
  | error _ =>
    rw [runWord_of_error hw] at h
    cases h
    cases hr
    exact ⟨rfl, (respond_sameCore _ 0 s).machine, rfl, rfl, fun _ => rfl⟩
  | ok i =>
    rw [runWord_of_ok hw] at h
    obtain ⟨hd, hbare, hrender⟩ := exec_failure h hr he
    by_cases hp : e = .presentationFailed
    · obtain rfl := hrender hp
      rw [exec_render] at h
      cases h
      exact ⟨hd, (submit_scaled_sameMachine s).trans (respond_sameCore _ 0 _).machine, rfl, rfl, fun hne => absurd hp hne⟩
    · obtain rfl := hbare hp
      exact ⟨hd, (respond_sameCore e 0 s).machine, rfl, rfl, fun _ => rfl⟩

/-! ### The commands that never fail -/

/-- Settles O33: none of the eleven has a cause in the status table, and none but PUSH and POP can stop. -/
theorem neverFailingCommandsAnswerOk : Obligations.NeverFailingCommandsAnswerOk := by
  unfold Obligations.NeverFailingCommandsAnswerOk
  intro i hi s
  have hstatus : statusOf i s = .ok := by
    cases i with
    | setdt _ | setst _ | tick | live | beepon | beepoff | getpc | geti | getsp | getdt | getst => rfl
    | _ => simp [Instr.mnemonic] at hi
  have hnotStack : i.mnemonic ∉ [.push, .pop] := by
    intro hstack
    rcases List.mem_pair.1 hstack with h | h <;> simp [h] at hi
  obtain ⟨t, ht⟩ := exec_completes_of_not_stack hnotStack s
  obtain ⟨d, hd⟩ := exec_answersStatus i s t ht
  exact ⟨t, d, ht, by rw [hd, hstatus]⟩

/-! ### The Engine's turn -/

/-- What R211 keeps from the Engine: the tone, the image and its submission, and the Sink but for its own drains. -/
structure State.OutputsKept (s t : State) : Prop where
  tone : t.tone = s.tone
  devbuf : t.devbuf = s.devbuf
  submitted : t.submitted = s.submitted
  playing : t.sink.playing = s.sink.playing
  queued : t.sink.q ≤ s.sink.q

theorem State.OutputsKept.refl (s : State) : s.OutputsKept s := ⟨rfl, rfl, rfl, rfl, le_rfl⟩

theorem State.OutputsKept.trans {s t u : State} (hst : s.OutputsKept t) (htu : t.OutputsKept u) : s.OutputsKept u where
  tone := htu.tone.trans hst.tone
  devbuf := htu.devbuf.trans hst.devbuf
  submitted := htu.submitted.trans hst.submitted
  playing := htu.playing.trans hst.playing
  queued := htu.queued.trans hst.queued

theorem respond_outputsKept (e : Status) (d : Word) (s : State) : s.OutputsKept (respond e d s) :=
  ⟨rfl, rfl, rfl, rfl, le_rfl⟩

/-- The environment's drains only lower the queue's length, and leave the playing flag (R173). -/
theorem environment_outputsKept (s : State) : s.OutputsKept (environment s) :=
  ⟨rfl, rfl, rfl, rfl, sink_q_drains_le _ s.sink⟩

/-- The updates that reach the outputs are those of RENDER, BEEPON and BEEPOFF, which the Engine may not issue (R211). -/
theorem Update.outputsKept {i : Instr} {s u : State} (h : Update i s u) (hi : engineMayIssue i.mnemonic = true) :
    s.OutputsKept u := by
  cases h with
  | render | startTone | beepoff => cases hi
  | same | push | pop | setpc | seti | wrmem | wrreg | wrpix | wrkey | setdt | setst | tick =>
    exact ⟨rfl, rfl, rfl, rfl, le_rfl⟩

theorem issue_outputsKept {i : Instr} {s t : State} (hi : engineMayIssue i.mnemonic = true) (h : issue i s = .next t) :
    s.OutputsKept t := by
  obtain ⟨_, hexec, rfl⟩ := issue_eq_next.1 h
  obtain ⟨u, e, d, rfl, hu, -⟩ := exec_next hexec
  exact ((hu.outputsKept hi).trans (respond_outputsKept e d u)).trans (environment_outputsKept _)

/-- A turn that is not over at once is one command that is the Engine's to issue, and then the rest of the turn. -/
theorem engineTurn_succ_eq_next {engine : List Response → Option Instr} {n : Nat} {seen : List Response} {s t : State}
    (h : engineTurn engine (n + 1) seen s = .next t) :
    t = s ∨ ∃ i u, engineMayIssue i.mnemonic = true ∧ issue i s = .next u ∧
      engineTurn engine n (seen ++ u.resp.toList) u = .next t := by
  rw [engineTurn] at h
  split at h
  · cases h
    exact .inl rfl
  · next i _ =>
    split at h
    · next hi =>
      obtain ⟨u, hu, ht⟩ := andThen_eq_next.1 h
      exact .inr ⟨i, u, hi, hu, ht⟩
    · cases h
      exact .inl rfl

theorem engineTurn_outputsKept {engine : List Response → Option Instr} {n : Nat} {seen : List Response} {s t : State}
    (h : engineTurn engine n seen s = .next t) : s.OutputsKept t := by
  induction n generalizing seen s with
  | zero =>
    cases h
    exact .refl _
  | succ n ih =>
    rcases engineTurn_succ_eq_next h with rfl | ⟨i, u, hi, hu, ht⟩
    · exact .refl t
    · exact (issue_outputsKept hi hu).trans (ih ht)

/-- Settles O38: by induction on the turn, each command the Engine may issue keeps the outputs. -/
theorem engineTurnLeavesOutputsAlone : Obligations.EngineTurnLeavesOutputsAlone := by
  unfold Obligations.EngineTurnLeavesOutputsAlone
  intro engine n seen s t h
  obtain ⟨htone, hdevbuf, hsubmitted, hplaying, hqueued⟩ := engineTurn_outputsKept h
  exact ⟨htone, hdevbuf, hsubmitted, hplaying, hqueued⟩

end Sys2Proof.Machine
end

section
/-! PROOFS. Reset and hazards (70_reset_and_hazards.md): one iteration of the driving loop (R234), the two orders of RENDER and the
tone command (R234), boot (R232), and the fetch at an accepted `pc` (R239). -/

namespace Sys2Proof.Machine

/-! ### What is presented: the device buffer and the last submission -/

/-- Nothing was rendered from `s` to `t`. -/
structure State.SameImage (s t : State) : Prop where
  devbuf : t.devbuf = s.devbuf
  submitted : t.submitted = s.submitted

theorem State.SameImage.refl (s : State) : s.SameImage s := ⟨rfl, rfl⟩

theorem State.SameImage.trans {s t u : State} (hst : s.SameImage t) (htu : t.SameImage u) : s.SameImage u where
  devbuf := htu.devbuf.trans hst.devbuf
  submitted := htu.submitted.trans hst.submitted

/-- RENDER's is the only update that reaches the image (R40, R150). -/
theorem Update.sameImage {i : Instr} {s u : State} (h : Update i s u) (hi : i ≠ .render) : s.SameImage u := by
  cases h with
  | render => exact absurd rfl hi
  | same | push | pop | setpc | seti | wrmem | wrreg | wrpix | wrkey | setdt | setst | tick | startTone | beepoff =>
    exact ⟨rfl, rfl⟩

theorem issue_sameImage {i : Instr} {s t : State} (hi : i ≠ .render) (h : issue i s = .next t) : s.SameImage t := by
  obtain ⟨_, hexec, rfl⟩ := issue_eq_next.1 h
  obtain ⟨u, e, d, rfl, hu, -⟩ := exec_next hexec
  have himage : s.SameImage u := hu.sameImage hi
  exact ⟨himage.devbuf, himage.submitted⟩

/-! ### The stages of the loop, each from the invariant -/

/-- Progress and preservation of one command issued (R12, R41). -/
theorem issue_completes_inv {s : State} (hs : s.Inv) (i : Instr) : ∃ t, issue i s = .next t ∧ t.Inv := by
  obtain ⟨u, hu⟩ := exec_completes hs.sp i
  exact ⟨_, issue_eq_next.2 ⟨u, hu, rfl⟩, environment_inv (exec_inv hs hu)⟩

theorem issue_unrendered {i : Instr} (hi : i ≠ .render) {s : State} (hs : s.Inv) :
    ∃ t, issue i s = .next t ∧ t.Inv ∧ s.SameImage t := by
  obtain ⟨t, ht, hinv⟩ := issue_completes_inv hs i
  exact ⟨t, ht, hinv, issue_sameImage hi ht⟩

theorem issueAll_unrendered {cmds : List Instr} (hcmds : .render ∉ cmds) {s : State} (hs : s.Inv) :
    ∃ t, issueAll cmds s = .next t ∧ t.Inv ∧ s.SameImage t := by
  induction cmds generalizing s with
  | nil => exact ⟨s, rfl, hs, .refl s⟩
  | cons i cmds ih =>
    obtain ⟨u, hu, huinv, hsu⟩ := issue_unrendered (List.ne_of_not_mem_cons hcmds).symm hs
    obtain ⟨t, ht, htinv, hut⟩ := ih (List.not_mem_of_not_mem_cons hcmds) huinv
    exact ⟨t, by rw [issueAll, hu, andThen_next, ht], htinv, hsu.trans hut⟩

/-- The Engine may not issue RENDER (R211), and whatever it does issue completes. -/
theorem engineTurn_unrendered (engine : List Response → Option Instr) (n : Nat) (seen : List Response) {s : State}
    (hs : s.Inv) : ∃ t, engineTurn engine n seen s = .next t ∧ t.Inv ∧ s.SameImage t := by
  induction n generalizing seen s with
  | zero => exact ⟨s, rfl, hs, .refl s⟩
  | succ n ih =>
    rw [engineTurn]
    split
    · exact ⟨s, rfl, hs, .refl s⟩
    · next i _ =>
      split
      · next hmay =>
        have hi : i ≠ .render := by
          rintro rfl
          cases hmay
        obtain ⟨u, hu, huinv, hsu⟩ := issue_unrendered hi hs
        obtain ⟨t, ht, htinv, hut⟩ := ih (seen ++ u.resp.toList) huinv
        exact ⟨t, by rw [hu, andThen_next, ht], htinv, hsu.trans hut⟩
      · exact ⟨s, rfl, hs, .refl s⟩

/-- The presentation stops rendering for good, and where it ends with rendering stopped it has issued no RENDER (R152, R234). -/
theorem present_completes_inv (rendering : Bool) {s : State} (hs : s.Inv) :
    ∃ t r, present rendering s = .next (t, r) ∧ t.Inv ∧ (rendering = false → r = false) ∧
      (r = false → s.SameImage t) := by
  cases rendering with
  | false => exact ⟨s, false, rfl, hs, fun _ => rfl, fun _ => .refl s⟩
  | true =>
    obtain ⟨t, hlive, htinv, hst⟩ := issue_unrendered (i := .live) (by simp) hs
    cases hsays : saysLive t.resp with
    | false => exact ⟨t, false, by simp [present, hlive, hsays], htinv, fun _ => rfl, fun _ => hst⟩
    | true =>
      obtain ⟨u, hrender, huinv⟩ := issue_completes_inv htinv .render
      exact ⟨u, true, by simp [present, hlive, hsays, hrender], huinv, id, nofun⟩

theorem gateCommand_ne_render (r : Option Response) : gateCommand r ≠ .render := by
  unfold gateCommand
  split
  · split <;> simp
  · simp

/-- GATE is GETST and one tone command, and neither renders (R175). -/
theorem gate_unrendered {s : State} (hs : s.Inv) : ∃ t, gate s = .next t ∧ t.Inv ∧ s.SameImage t := by
  obtain ⟨u, hu, huinv, hsu⟩ := issue_unrendered (i := .getst) (by simp) hs
  obtain ⟨t, ht, htinv, hut⟩ := issue_unrendered (gateCommand_ne_render u.resp) huinv
  exact ⟨t, by rw [gate, hu, andThen_next, ht], htinv, hsu.trans hut⟩

/-- After GATE the tone follows the sound timer it leaves (R175). -/
theorem gate_tone_follows_st {s t : State} (h : gate s = .next t) :
    (t.st ≠ 0 → t.tone = .sounding) ∧ (t.st = 0 → t.tone = .idle) := by
  obtain ⟨u, hu, hmachine, -, hsound, hsilent⟩ := gateFollowsSoundTimer s
  cases h.symm.trans hu
  rw [hmachine.st]
  exact ⟨fun hst => (hsound hst).1, fun hst => (hsilent hst).1⟩

/-- Settles O41: each of the five stages completes and keeps the invariant, only the presentation can render, and GATE comes
last. -/
theorem loopIterationKeepsInvariant : Obligations.LoopIterationKeepsInvariant := by
  unfold Obligations.LoopIterationKeepsInvariant
  intro engine keys rendering s hs
  have hkeys : Instr.render ∉ keys.map fun k => .wrkey k.1 k.2 := by simp
  obtain ⟨s1, h1, hinv1, himage1⟩ := issueAll_unrendered hkeys hs
  obtain ⟨s2, h2, hinv2, himage2⟩ := engineTurn_unrendered engine Config.cmdsPerTick [] hinv1
  obtain ⟨s3, h3, hinv3, himage3⟩ := issue_unrendered (i := .tick) (by simp) hinv2
  obtain ⟨s4, r, h4, hinv4, hstopped, himage4⟩ := present_completes_inv rendering hinv3
  obtain ⟨t, h5, hinv, himage5⟩ := gate_unrendered hinv4
  obtain ⟨hsounding, hidle⟩ := gate_tone_follows_st h5
  refine ⟨t, r, ?_, hinv, hsounding, hidle, hstopped, fun hr => ?_⟩
  · simp only [loopIteration, h1, h2, h3, h4, h5, andThen_next]
  · have himage : s.SameImage t := (((himage1.trans himage2).trans himage3).trans (himage4 hr)).trans himage5
    exact ⟨himage.devbuf, himage.submitted⟩

/-! ### RENDER and the tone command -/

theorem execAll_pair {i j : Instr} {s t u : State} (hi : exec i s = .next t) (hj : exec j t = .next u) :
    execAll [i, j] s = .next u := by
  simp [execAll, hi, hj]

/-- Settles O24: RENDER leaves the tone and the Sink, which are all a tone command reads, and a tone command leaves all that RENDER
reads. -/
theorem renderAndToneCommandCommute : Obligations.RenderAndToneCommandCommute := by
  unfold Obligations.RenderAndToneCommandCommute
  intro s i hi
  obtain ⟨tn, k, hfirst, hsecond⟩ := exec_toneCommand_agree hi (s := s)
    (s' := respond (renderStatus s.surface.accepts) 0 { s with devbuf := s.scaled }.submit) rfl rfl
  exact ⟨_, _, execAll_pair (exec_render s) hsecond, execAll_pair hfirst (exec_render _), rfl⟩

/-! ### Boot -/

theorem State.SameCore.refl (s : State) : s.SameCore s := ⟨⟨rfl, rfl, rfl, rfl, rfl, rfl, rfl, rfl, rfl, rfl⟩, rfl, rfl⟩

/-- Loading an image from address `a` on leads from `s` to `t`: each byte that fits stands at its address, and nothing else of the
core state is changed (R232). -/
structure State.Loads (a : Nat) (image : List Byte) (s t : State) : Prop where
  bytes : ∀ k (h : k < image.length), a + k < memSize → Memory.read t.mem (a + k) = image[k]
  others : ∀ b, b < a ∨ a + image.length ≤ b ∨ memSize ≤ b → Memory.read t.mem b = Memory.read s.mem b
  frame : s.SameCore { t with mem := s.mem }

/-- Of an image that has no byte inside memory nothing is to be written. -/
theorem State.SameCore.loads_of_ge {a : Nat} {image : List Byte} {s t : State} (hcore : s.SameCore t)
    (h : ∀ k < image.length, memSize ≤ a + k) : s.Loads a image t where
  bytes k hk hlt := absurd hlt (not_lt_of_ge (h k hk))
  others _ _ := by rw [hcore.machine.mem]
  frame := { hcore with machine := { hcore.machine with mem := rfl } }

/-- The store of the first byte and the load of the rest are of different cells. -/
theorem State.Loads.cons {a : Nat} {v : Byte} {rest : List Byte} {s u t : State} (hfirst : s.Loads a [v] u)
    (hrest : u.Loads (a + 1) rest t) : s.Loads a (v :: rest) t where
  bytes k hk hlt := by
    cases k with
    | zero => exact (hrest.others a (by omega)).trans (hfirst.bytes 0 (by simp) hlt)
    | succ k =>
      have haddr : a + (k + 1) = a + 1 + k := by omega
      rw [haddr] at hlt ⊢
      exact hrest.bytes k (Nat.lt_of_succ_lt_succ hk) hlt
  others b hb := by
    simp only [List.length_cons] at hb
    exact (hrest.others b (by omega)).trans (hfirst.others b (by simp only [List.length_singleton]; omega))
  frame := hfirst.frame.trans { hrest.frame with machine := { hrest.frame.machine with mem := rfl } }

/-- One WRMEM loads one byte: inside memory it is stored, outside the command fails and changes nothing (R121). -/
theorem issue_wrmem_loads {a : Nat} (ha : a < 65536) (v : Byte) (s : State) :
    ∃ u, issue (.wrmem (BitVec.ofNat 16 a) v) s = .next u ∧ s.Loads a [v] u := by
  have hidx : (BitVec.ofNat 16 a).toNat = a := by rw [BitVec.toNat_ofNat, Nat.mod_eq_of_lt ha]
  by_cases hmem : a < memSize
  · refine ⟨_, issue_of_done (exec_wrmem_of_lt (hidx.trans_lt hmem) v s), ?_, ?_, ?_⟩
    · intro k hk _
      obtain rfl : k = 0 := Nat.lt_one_iff.1 hk
      simp [memory_read_write, hidx]
    · intro b hb
      have hne : b ≠ a := by simp only [List.length_singleton] at hb; omega
      simp [memory_read_write, hidx, hne]
    · exact ⟨⟨rfl, rfl, rfl, rfl, rfl, rfl, rfl, rfl, rfl, rfl⟩, rfl, rfl⟩
  · have hge : memSize ≤ a := not_lt.1 hmem
    refine ⟨_, issue_eq_next.2 ⟨_, exec_wrmem_of_ge (hge.trans_eq hidx.symm) v s, rfl⟩, ?_⟩
    exact ((respond_sameCore _ 0 s).trans (environment_sameCore _)).loads_of_ge fun k _ => hge.trans (Nat.le_add_right a k)

theorem issueAll_loadCommands_loads (image : List Byte) (a : Nat) (s : State) :
    ∃ t, issueAll (loadCommands a image) s = .next t ∧ s.Loads a image t := by
  induction image generalizing a s with
  | nil => exact ⟨s, rfl, (State.SameCore.refl s).loads_of_ge fun _ hk => nomatch hk⟩
  | cons v rest ih =>
    by_cases ha : a < 65536
    · obtain ⟨u, hu, hfirst⟩ := issue_wrmem_loads ha v s
      obtain ⟨t, ht, hrest⟩ := ih (a + 1) u
      exact ⟨t, by rw [loadCommands_cons_of_lt ha, issueAll, hu, andThen_next, ht], hfirst.cons hrest⟩
    · have hge : memSize ≤ a := le_trans (by decide) (not_lt.1 ha)
      exact ⟨s, by rw [loadCommands_of_ge (not_lt.1 ha), issueAll],
        (State.SameCore.refl s).loads_of_ge fun k _ => hge.trans (Nat.le_add_right a k)⟩

/-- Settles O40: boot is the load from `programLoadAddr` on, by induction on the image. -/
theorem bootLoadsTheImage : Obligations.BootLoadsTheImage := by
  unfold Obligations.BootLoadsTheImage
  intro image s
  obtain ⟨t, ht, hloads⟩ := issueAll_loadCommands_loads image programLoadAddr.toNat s
  exact ⟨t, ht, hloads.bytes, hloads.others, hloads.frame.machine, hloads.frame.tone, hloads.frame.devbuf⟩

/-! ### The fetch at an accepted pc -/

/-- SETPC answers OK only where it has tested and written the value (R102). -/
theorem exec_setpc_accepted {v : Word} {s t : State} (h : exec (.setpc v) s = .next t) (hok : t.resp = okResp 0) :
    v.toNat ≤ pcLimit ∧ t.pc = v := by
  by_cases hv : v.toNat ≤ pcLimit
  · rw [exec_setpc_of_le hv, done_eq_next] at h
    exact ⟨hv, by rw [h, respond_pc]⟩
  · rw [exec_setpc_of_gt (not_le.1 hv), raise_eq_next] at h
    simp [h] at hok

/-- Settles O11: an accepted value is at most 4094, so it and its successor are addresses of memory. -/
theorem acceptedPcIsFetchable : Obligations.AcceptedPcIsFetchable := by
  unfold Obligations.AcceptedPcIsFetchable
  intro s t v h hok
  obtain ⟨hle, hpc⟩ := exec_setpc_accepted h hok
  have hbound : t.pc.toNat ≤ 4094 := by rw [hpc]; exact hle
  have hsucc : (t.pc + 1).toNat = t.pc.toNat + 1 := by bv_omega
  have hfetch : t.pc.toNat < memSize := Nat.lt_succ_of_le (hbound.trans (by decide))
  have hfetchNext : (t.pc + 1).toNat < memSize := hsucc.trans_lt (Nat.succ_lt_succ (Nat.lt_succ_of_le hbound))
  exact ⟨hpc, hsucc, ⟨_, exec_rdmem_of_lt hfetch t⟩, ⟨_, exec_rdmem_of_lt hfetchNext t⟩⟩

end Sys2Proof.Machine
end
